-- ==== Sys2Proof/Word.lean ====
section
/-!
DEFINITION. The word types: the spec's `U64` (rule R8) and the 132-bit command word (rule R71). All arithmetic of
the block is that of `BitVec 64`: unsigned, additions modulo 2^64 (rules R6 and R52).
-/

namespace Sys2Proof

/-- Rule R8: an unsigned 64-bit integer; every address and every data value of the block (`XLEN = 64`, rule R5). -/
abbrev U64 := BitVec 64

/-- Rule R71: one word of the command port, `op` in bits 131:128, `a` in bits 127:64, `b` in bits 63:0. -/
abbrev CmdWord := BitVec 132

end Sys2Proof
end

