-- ==== Sys2Proof/Syntax.lean ====
section
/-!
DEFINITION. The seven operations of rule R70, one constructor per row of spec/opcode_table.json. Every operation
carries both operands of the one command format (rule R71): where the spec calls operand `b` ignored, any value may be
sent in it (rule R80), so the constructor keeps that value and no bit of a command word is lost.
-/

namespace Sys2Proof

/-- The block's operations (rule R70). -/
inductive Instr where
  /-- `CTXINIT root, count` (rule R131). -/
  | ctxinit (root count : U64)
  /-- `CELLWR paddr, raw` (rule R132; the pair is the cell format of rule R78). -/
  | cellwr (paddr raw : U64)
  /-- `XLATE va` (rule R140); `b` is ignored. -/
  | xlate (va b : U64)
  /-- `VADEC va` (rule R100); `b` is ignored. -/
  | vadec (va b : U64)
  /-- `PDDEC raw` (rule R110); `b` is ignored. -/
  | pddec (raw b : U64)
  /-- `LPDET raw, level` (rule R120). -/
  | lpdet (raw level : U64)
  /-- `LOOKUP paddr` (rule R134); `b` is ignored. -/
  | lookup (paddr b : U64)
  deriving DecidableEq, Repr

/-- Why a command word is no operation. -/
inductive DecodeError where
  /-- Rule R73: the operation code is 0x0 or one of 0x8 to 0xF. -/
  | reservedOp
  deriving DecidableEq, Repr

end Sys2Proof
end

