-- ==== Sys2Proof/WellFormed.lean ====
section
/-!
DEFINITION. Which operations have legal operands whatever the phase: every U64 is a legal operand (rule R186), but for
the level of `LPDET`, which the host owes as 1 to 4 (rules R120 and R205). An ill-formed `LPDET` still decodes and is
refused by its meaning with `BadLevel` (rule R188), so nothing in the machine depends on this check.
-/

namespace Sys2Proof

/-- Rule R205's duty on operand values: the level of `LPDET` is 1, 2, 3 or 4; all else is free (rule R186). -/
def wellFormed : Instr → Bool
  | .ctxinit _ _ => true
  | .cellwr _ _ => true
  | .xlate _ _ => true
  | .vadec _ _ => true
  | .pddec _ _ => true
  | .lpdet _ level => decide (1 ≤ level.toNat ∧ level.toNat ≤ 4)
  | .lookup _ _ => true

end Sys2Proof
end

