-- ==== Sys2Proof/Decode.lean ====
section
/-!
DEFINITION. Decoding and encoding of the one command format `CMD` (rules R70, R71, R73, R82). A command is one 132-bit
word of the command port; it is not stored in memory and has no byte order (rules R43 and R56).
-/

namespace Sys2Proof

/-- Field `op` of a command word: bits 131:128 (rule R71). -/
def opField (w : CmdWord) : BitVec 4 := w.extractLsb' 128 4

/-- Field `a` of a command word: bits 127:64 (rule R71). -/
def aField (w : CmdWord) : U64 := w.extractLsb' 64 64

/-- Field `b` of a command word: bits 63:0 (rule R71). -/
def bField (w : CmdWord) : U64 := w.extractLsb' 0 64

/-- The operation a command word stands for (rules R70 and R71). Codes 0x0 and 0x8 to 0xF select no operation (rule
R73): each is rejected as `reservedOp` and none falls through to a neighbour. -/
def decode (w : CmdWord) : Except DecodeError Instr :=
  match (opField w).toNat with
  | 0x1 => .ok (.ctxinit (aField w) (bField w))
  | 0x2 => .ok (.cellwr (aField w) (bField w))
  | 0x3 => .ok (.xlate (aField w) (bField w))
  | 0x4 => .ok (.vadec (aField w) (bField w))
  | 0x5 => .ok (.pddec (aField w) (bField w))
  | 0x6 => .ok (.lpdet (aField w) (bField w))
  | 0x7 => .ok (.lookup (aField w) (bField w))
  | _ => .error .reservedOp

/-- A command word from its three fields: `op` highest, then `a`, then `b` (rule R71). -/
def commandWord (op : BitVec 4) (a b : U64) : CmdWord := op ++ a ++ b

/-- The command word of an operation (rule R70's codes in rule R71's format). -/
def encode : Instr → CmdWord
  | .ctxinit root count => commandWord 0x1#4 root count
  | .cellwr paddr raw => commandWord 0x2#4 paddr raw
  | .xlate va b => commandWord 0x3#4 va b
  | .vadec va b => commandWord 0x4#4 va b
  | .pddec raw b => commandWord 0x5#4 raw b
  | .lpdet raw level => commandWord 0x6#4 raw level
  | .lookup paddr b => commandWord 0x7#4 paddr b

/-- The word of the port whose bits are the `nbits` low bits of `w`, numbered as spec/opcode_table.json numbers them
(bit 0 the least significant); `none` where a bit above 131 is set, since a command word has no such bit (rule R71). -/
def portWord (nbits w : Nat) : Option CmdWord :=
  if w % 2 ^ nbits < 2 ^ 132 then some (BitVec.ofNat 132 (w % 2 ^ nbits)) else none

/-- What the decoder reads from a word given as a number (the host's interface): `none` where it rejects. -/
def decodeTableWord (nbits w : Nat) : Option Instr :=
  match portWord nbits w with
  | none => none
  | some word =>
    match decode word with
    | .ok i => some i
    | .error _ => none

end Sys2Proof
end

