-- ==== Sys2Proof/Config.lean ====
section
/-!
DEFINITION. What an implementation fixes. Of the parameters of rule R5 exactly one is open, `SNAP_CAPACITY`
(decision D16). The others are fixed numbers and stand, as numbers, in the definitions that use them: `XLEN` = 64
(`U64`), `LEVELS` = 4 (`Machine.Level`), `OFFSET_BITS` = 12, `INDEX_BITS` = 9 and `VA_BITS` = 48
(`Machine.decomposeVA`), `ENTRY_BYTES` = 8 (`Machine.scaledIndex`), `ENTRIES_PER_TABLE` = 2^9 (the width of an
index), `FRAME_BITS` = 40 and `PA_BITS` = 52 (`Machine.tableBase`), `LP_EN` = 1 and `LP_SHIFT` = 30, 21
(`Machine.detectLargePage`), `DUP_POLICY` = last write wins (`Machine.memWrite`), `N_WALKERS` = 1 (`Machine.step`),
`OP_BITS` = 4 (`decode`). No behaviour of the block is left to a free value, so there is no opaque constant here.
-/

namespace Sys2Proof

/-- The implementation's open parameter (rules R5 and R136, decision D16). -/
structure Config where
  /-- `SNAP_CAPACITY`: the most distinct cell addresses the snapshot holds; `none` is "unbounded". -/
  snapCapacity : Option Nat
  deriving DecidableEq, Repr

/-- Rule R5: "default unbounded". -/
def Config.unbounded : Config := { snapCapacity := none }

end Sys2Proof
end

