-- ==== Sys2Proof/Machine/Types.lean ====
section
/-!
DEFINITION. The data the block's units hand to one another and to the host: phases, walk levels, the records of the
decomposer, decoder and detector, the outcome of a walk, responses, and what the host may send.
-/

namespace Sys2Proof.Machine

/-- Rule R23: `PHASE`. Its numeric coding is not architectural (rule R29). -/
inductive Phase where
  /-- After reset, no context. -/
  | empty
  /-- `CTXINIT` has run and fewer cells than announced have been written. -/
  | loading
  /-- All announced cells are in; `SNAP` and `ROOT` are constant until reset. -/
  | ready
  deriving DecidableEq, Repr

/-- Rule R11: a walk level; level 1 is the top table, whose base is `ROOT`, and level 4 the leaf. -/
inductive Level where
  | one
  | two
  | three
  | four
  deriving DecidableEq, Repr

/-- Rule R75: the six fields of a virtual address; the response of `VADEC` (rule R100). -/
structure VAFields where
  /-- bits 63:48, never used -/
  rsvd : BitVec 16
  /-- bits 47:39, consumed at walk level 1 -/
  ix1 : BitVec 9
  /-- bits 38:30, consumed at walk level 2 -/
  ix2 : BitVec 9
  /-- bits 29:21, consumed at walk level 3 -/
  ix3 : BitVec 9
  /-- bits 20:12, consumed at walk level 4 -/
  ix4 : BitVec 9
  /-- bits 11:0 -/
  offset : BitVec 12
  deriving DecidableEq, Repr

/-- Rule R76: the nine fields of a page descriptor; the response of `PDDEC` (rule R110). A field of one bit is a
`Bool`. -/
structure PageDescriptor where
  /-- bit 0 -/
  present : Bool
  /-- bit 1, without effect (rule R113) -/
  writable : Bool
  /-- bit 2, without effect (rule R113) -/
  userAccessible : Bool
  /-- bits 6:3, ignored -/
  rsvd_6_3 : BitVec 4
  /-- bit 7 -/
  largePage : Bool
  /-- bits 11:8, ignored -/
  rsvd_11_8 : BitVec 4
  /-- bits 51:12 -/
  physicalFrame : BitVec 40
  /-- bits 62:52, ignored -/
  rsvd_62_52 : BitVec 11
  /-- bit 63, without effect (rule R113) -/
  executeDisabled : Bool
  deriving DecidableEq, Repr

/-- Rule R120: the response of `LPDET`. -/
structure LargePageVerdict where
  /-- one bit: the walk ends with this descriptor because it maps a large page -/
  large : Bool
  /-- how many low bits of the virtual address form the offset, if the walk ends here -/
  shift : BitVec 6
  deriving DecidableEq, Repr

/-- Rule R181: the two ways an entry can be unusable. -/
inductive Unusable where
  /-- the snapshot has no cell at the entry's address -/
  | absent
  /-- the cell is there and its bit 0 is 0 -/
  | notPresent
  deriving DecidableEq, Repr

/-- Rule R181: one of the eight causes of a Fault. For proofs only: no response and no state depends on it (rule R182). -/
structure FaultCause where
  level : Level
  why : Unusable
  deriving DecidableEq, Repr

/-- How a walk ends (rule R79), with the cause of a Fault kept for proofs (rules R181 and R182). -/
inductive WalkEnd where
  /-- a terminal descriptor: the physical address -/
  | ok (pa : U64)
  /-- an unusable entry -/
  | fault (cause : FaultCause)
  deriving DecidableEq, Repr

/-- One walk: the entry addresses it looks up, in order (rule R50), and how it ends. A value inside one operation,
never state (rule R25). -/
structure Walk where
  reads : List U64
  ending : WalkEnd
  deriving DecidableEq, Repr

/-- Rule R72: the typed response of an operation. `fault` carries nothing (rules R182 and R183). -/
inductive Response where
  /-- `Done`, of `CTXINIT` and `CELLWR` -/
  | done
  /-- `OK(pa)`, of `XLATE` -/
  | ok (pa : U64)
  /-- `Fault`, of `XLATE`: the block's one exception, a value (rule R180) -/
  | fault
  /-- the record of `VADEC` -/
  | vaFields (fields : VAFields)
  /-- the record of `PDDEC` -/
  | descriptor (fields : PageDescriptor)
  /-- the record of `LPDET` -/
  | largePage (verdict : LargePageVerdict)
  /-- `Some(raw)` or `None`, of `LOOKUP` -/
  | cell (value : Option U64)
  deriving DecidableEq, Repr

/-- What can come from the host (rules R12 and R200): a command word, or the reset event, which is no operation and has
no code. -/
inductive HostEvent where
  | command (word : CmdWord)
  | reset
  deriving DecidableEq, Repr

/-- Rule R84: a dataset, already parsed into numbers (rules R85 and R186). The host's data, never state. -/
structure Dataset where
  root : U64
  cells : List (U64 × U64)
  queries : List U64
  deriving DecidableEq, Repr

end Sys2Proof.Machine
end

