-- ==== Sys2Proof/Machine/State.lean ====
section
/-!
DEFINITION. The machine's state (rule R20: four elements), the two reasons for a step to stop, and the state after
reset. Beside the four elements State holds three fields of the MODEL's own: the host's events still to come, the
responses given, and the implementation's one parameter.
-/

namespace Sys2Proof.Machine

/-- Rules R22, R41 and R44: the snapshot, a finite map from addresses to whole 64-bit cells, as a list of (address,
cell) pairs in one canonical form (`Memory.wf`). It is no byte array: a cell has one key, and two keys closer than 8 do
not interact (rule R44). An address that is not listed is absent, which is not zero (rule R42). -/
abbrev Memory := List (Nat × U64)

/-- Machine faults: none. Nothing stops the block with a fault (rule R10; the last line of part 1 of
93_implementation_defined.md): the one exception, `Fault`, is a response of `XLATE` (rule R180), after which the
machine goes on. That the type is empty is safe: it rules out no run. -/
inductive Fault : Type
  deriving DecidableEq, Repr

/-- Rule R188: why an operation is refused. All are safe: the spec gives such an operation no meaning, and the model
ends the run there and claims nothing of what comes after. -/
inductive Refusal where
  /-- Raised by an arm of `exec` that gives its instruction no meaning yet; no arm is left that does. Safe. -/
  | notModelled (mnemonic : String)
  /-- Raised by `CTXINIT` outside EMPTY, by `CELLWR` outside LOADING, by `XLATE` and `LOOKUP` outside READY (rule R74).
  Safe. -/
  | badPhase
  /-- Raised by command decode on the codes 0x0 and 0x8 to 0xF (rule R73). Safe. -/
  | reservedOp
  /-- Raised by `LPDET` when its level is not 1, 2, 3 or 4 (rule R120). Safe. -/
  | badLevel
  /-- Raised by `CELLWR` on a new key beyond `SNAP_CAPACITY` (rules R132 and R136). Safe. -/
  | capacity
  deriving DecidableEq, Repr

/-- The whole state. -/
structure State where
  /-- Rule R23: `PHASE`. -/
  phase : Phase
  /-- Rule R21: `ROOT`, the address of the level-1 table, all 64 bits as given. -/
  root : U64
  /-- Rule R24: `REMAIN`, the cells still to be written before loading is complete. -/
  remain : U64
  /-- Rule R22: `SNAP`. -/
  snap : Memory
  /-- The model's own: the implementation's parameter, never written (DESIGN CHOICE, log entry 3). -/
  config : Config
  /-- The model's own: what the host will send, in the order it sends it (DESIGN CHOICE, log entry 1). -/
  port : List HostEvent
  /-- The model's own: the responses given so far, oldest first; no operation reads it (DESIGN CHOICE, log entry 2). -/
  responses : List Response
  deriving DecidableEq, Repr

/-- Rules R31 and R201: the machine after reset. `PHASE` is EMPTY and `SNAP` is empty. The spec leaves `ROOT` and
`REMAIN` unspecified; the model names 0 for both (DESIGN CHOICE, log entry 4, unsafe): nothing reads either before
`CTXINIT` writes it. -/
def State.reset : State where
  phase := .empty
  root := 0
  remain := 0
  snap := []
  config := Config.unbounded
  port := []
  responses := []

/-- What the command port offers the next step. -/
inductive Fetched where
  /-- nothing: the block waits for the host (rule R202) -/
  | idle
  /-- the reset event (rule R200), and the state with the event taken off the port -/
  | reset (s : State)
  /-- an operation, and the state with its word taken off the port -/
  | run (i : Instr) (s : State)
  /-- a word that is no operation (rule R73) -/
  | refused (r : Refusal)
  deriving DecidableEq, Repr

end Sys2Proof.Machine
end

