-- ==== Sys2Proof/Machine/Flags.lean ====
section
/-!
DEFINITION. The block has no flags, no condition codes and no sticky bit (rule R28): no operation leaves a status
behind. What the walk tests are two bits of a descriptor, read out of it each time and never latched; they stand here.
-/

namespace Sys2Proof.Machine

/-- Rule R76: bit 0 of a descriptor. -/
def presentBit (raw : U64) : Bool := raw.getLsbD 0

/-- Rule R76: bit 7 of a descriptor. Whether it means anything depends on the walk level (rule R121). -/
def largePageBit (raw : U64) : Bool := raw.getLsbD 7

/-- Rule R114: the presence test on a lookup's result; the descriptor where it is usable, else why it is not. Absence is
found before presence is tested (rule R147). -/
def usable : Option U64 → Except Unusable U64
  | none => .error .absent
  | some raw => if presentBit raw then .ok raw else .error .notPresent

end Sys2Proof.Machine
end

