-- ==== Sys2Proof/Machine/Operands.lean ====
section
/-!
DEFINITION. How addresses are assembled from fields: every operand form of rule R77, and the fields of a virtual
address (rules R75 and R100). All values are unsigned; a narrower value is widened with zeros (rule R7, `zext_64`).
-/

namespace Sys2Proof.Machine

/-- Rules R75 and R100: the six fields of a virtual address. -/
def decomposeVA (va : U64) : VAFields where
  rsvd := va.extractLsb' 48 16
  ix1 := va.extractLsb' 39 9
  ix2 := va.extractLsb' 30 9
  ix3 := va.extractLsb' 21 9
  ix4 := va.extractLsb' 12 9
  offset := va.extractLsb' 0 12

/-- Rule R11: the index that walk level `k` consumes. -/
def levelIndex (f : VAFields) : Level → BitVec 9
  | .one => f.ix1
  | .two => f.ix2
  | .three => f.ix3
  | .four => f.ix4

/-- Rule R77: the index scaled by the 8 bytes of an entry, `zext_64(ix) * 8`. -/
def scaledIndex (ix : BitVec 9) : U64 := ix.setWidth 64 * 8

/-- Rule R77: the address of an entry, `base + ix * 8` modulo 2^64. All 64 bits of `base` count (rule R47), and nothing
is checked or aligned (rule R45). -/
def entryAddress (base : U64) (ix : BitVec 9) : U64 := base + scaledIndex ix

/-- Rule R112: `TBASE(raw) = zext_64(raw[51:12]) << 12`. -/
def tableBase (raw : U64) : U64 := (raw.extractLsb' 12 40).setWidth 64 <<< 12

/-- Rule R103: `OFF(va, s) = va[s-1:0]`, widened to 64 bits. -/
def pageOffset (va : U64) (shift : Nat) : U64 := (va.extractLsb' 0 shift).setWidth 64

/-- Rules R77 and R150: the address a terminal descriptor maps, the plain sum of its base and the offset. The frame is
neither checked nor masked to the page size. -/
def pageAddress (raw va : U64) (shift : Nat) : U64 := tableBase raw + pageOffset va shift

/-- Rule R120: the walk level a 64-bit operand names; only 1, 2, 3 and 4 name one. -/
def levelOf (b : U64) : Option Level :=
  match b.toNat with
  | 1 => some .one
  | 2 => some .two
  | 3 => some .three
  | 4 => some .four
  | _ => none

end Sys2Proof.Machine
end

