-- ==== Sys2Proof/Machine/Ops.lean ====
section
/-!
DEFINITION. The operations the meanings share: the snapshot's one read and one write (rule R7), its canonical form, the
phase check (rule R74), giving a response (rule R72), the Fault (rules R180 and R190), and the reset event (rule R200).
There is no return from an exception, since none is entered (rule R191).
-/

namespace Sys2Proof.Machine

/-- The cell listed under the key `k`, if one is. -/
def cellAt (k : Nat) : Memory → Option U64
  | [] => none
  | (j, v) :: rest => if j = k then some v else cellAt k rest

/-- Puts the cell `v` under the key `k`, in place of an earlier one, keeping the keys in rising order. -/
def insertCell (k : Nat) (v : U64) : Memory → Memory
  | [] => [(k, v)]
  | (j, w) :: rest =>
    if k < j then (k, v) :: (j, w) :: rest
    else if k = j then (k, v) :: rest
    else (j, w) :: insertCell k v rest

/-- Rules R7 and R41: `MemRead(addr, 8)`, by exact equality of all 64 bits of the key; `none` where no cell was loaded
(rule R42). This one definition says what an unlisted address reads as. -/
def memRead (m : Memory) (addr : U64) : Option U64 := cellAt addr.toNat m

/-- Rules R7 and R133: `MemWrite(addr, 8, v)`, `SNAP[addr] <- Some(v)`; the last write to a key wins. -/
def memWrite (m : Memory) (addr v : U64) : Memory := insertCell addr.toNat v m

/-- `size(SNAP)` of rule R132: how many keys are present. -/
def memSize (m : Memory) : Nat := m.length

/-- The keys are at least `lo`, strictly rising, and 64 bits wide. -/
def Memory.risingFrom (lo : Nat) : Memory → Bool
  | [] => true
  | (k, _) :: rest => decide (lo ≤ k) && decide (k < 2 ^ 64) && Memory.risingFrom (k + 1) rest

/-- The canonical form: keys strictly rising and below 2^64. An unlisted address reads as absent and a listed one never
does, so no entry equals what an unlisted address reads as. -/
def Memory.wf (m : Memory) : Bool := Memory.risingFrom 0 m

/-- Rule R72: `r` becomes the newest response; nothing else changes. -/
def State.addResponse (s : State) (r : Response) : State := { s with responses := s.responses ++ [r] }

/-- Rule R72: end the operation with the response `r`. -/
def respond (r : Response) (s : State) : Host.Outcome State Fault Refusal := .next (s.addResponse r)

/-- TAKING THE EXCEPTION (rules R180, R190 and R191): the operation responds `Fault`. No register saves anything, no mode
or mask changes, control goes nowhere, and the next operation proceeds as if there had been none. -/
def takeFault (s : State) : Host.Outcome State Fault Refusal := respond .fault s

/-- Rule R74: go on only in the phase `p`; in another the operation is refused and changes nothing. -/
def requirePhase (p : Phase) (s : State) (go : Host.Outcome State Fault Refusal) : Host.Outcome State Fault Refusal :=
  if s.phase = p then go else .refused .badPhase

/-- Rule R132: the snapshot holds as many keys as the implementation can hold. -/
def atCapacity (s : State) : Bool := decide (s.config.snapCapacity = some (memSize s.snap))

/-- Rules R131 and R132: the phase once `REMAIN` holds `remain`: READY when no cell is still to come. -/
def phaseAfter (remain : U64) : Phase := if remain = 0 then .ready else .loading

/-- Rule R131: the context a `CTXINIT` creates. `SNAP` is not touched; it is empty already. -/
def State.initContext (s : State) (root count : U64) : State :=
  { s with root := root, remain := count, phase := phaseAfter count }

/-- Rule R132: one cell stored and counted. -/
def State.storeCell (s : State) (paddr raw : U64) : State :=
  { s with
    snap := memWrite s.snap paddr raw
    remain := s.remain - 1
    phase := phaseAfter (s.remain - 1) }

/-- Rule R9: the port with the events `rest` still to come. -/
def State.withPort (s : State) (rest : List HostEvent) : State := { s with port := rest }

/-- Rule R200: the reset event. `PHASE <- EMPTY`, `SNAP <- empty`; `ROOT` and `REMAIN`, which the spec leaves
unspecified, take the values they have in `State.reset` (DESIGN CHOICE, log entry 5). It gives no response. What the host
still has to send, what it was answered, and the implementation's parameter are none of the block's state and stay. -/
def State.applyReset (s : State) : State :=
  { s with
    phase := .empty
    snap := []
    root := State.reset.root
    remain := State.reset.remain }

/-- Rule R202: with nothing on the port the block waits; nothing changes (DESIGN CHOICE, log entry 1). -/
def waitForHost (s : State) : Host.Outcome State Fault Refusal := .next s

end Sys2Proof.Machine
end

