-- ==== Sys2Proof/Machine/CommandPort.lean ====
section
/-!
DEFINITION. The command port (rules R9, R12 and R27): the block takes one event at a time, in the order the host sends
them, and looks at no later one.
-/

namespace Sys2Proof.Machine

/-- The next event of the port, decoded. -/
def fetch (s : State) : Fetched :=
  match s.port with
  | [] => .idle
  | .reset :: rest => .reset (s.withPort rest)
  | .command word :: rest =>
    match decode word with
    | .ok i => .run i (s.withPort rest)
    | .error .reservedOp => .refused .reservedOp

/-- The host puts a command word before everything else it has to send. -/
def issue (s : State) (word : CmdWord) : State := s.withPort (.command word :: s.port)

/-- As `issue`, for a word given as a number; a number with a bit above 131 is no word of the port, and nothing is
issued. -/
def issueTableWord (s : State) (nbits w : Nat) : State :=
  match portWord nbits w with
  | some word => issue s word
  | none => s

/-- The port's events for a sequence of operations, in order. -/
def commandsOf (is : List Instr) : List HostEvent := is.map (fun i => .command (encode i))

end Sys2Proof.Machine
end

