-- ==== Sys2Proof/Machine/DescriptorDecoder.lean ====
section
/-!
DEFINITION. The page-descriptor decoder: the operation `PDDEC` (41_descriptor_decoder.md). `TBASE` is `tableBase` of
Operands, the presence test `usable` of Flags.
-/

namespace Sys2Proof.Machine

/-- Rules R76 and R110: the nine fields of a page descriptor, the same at every walk level and whether or not it is
present. -/
def decodeDescriptor (raw : U64) : PageDescriptor where
  present := presentBit raw
  writable := raw.getLsbD 1
  userAccessible := raw.getLsbD 2
  rsvd_6_3 := raw.extractLsb' 3 4
  largePage := largePageBit raw
  rsvd_11_8 := raw.extractLsb' 8 4
  physicalFrame := raw.extractLsb' 12 40
  rsvd_62_52 := raw.extractLsb' 52 11
  executeDisabled := raw.getLsbD 63

/-- `PDDEC raw` (rules R110 and R115): responds the nine fields of `raw`, in every phase; reads and writes no state. `b`
is ignored (rule R80). -/
def execPddec (raw _b : U64) (s : State) : Host.Outcome State Fault Refusal :=
  respond (.descriptor (decodeDescriptor raw)) s

end Sys2Proof.Machine
end

