-- ==== Sys2Proof/Machine/Snapshot.lean ====
section
/-!
DEFINITION. The memory snapshot: the operations `CTXINIT`, `CELLWR` and `LOOKUP` (43_snapshot.md).
-/

namespace Sys2Proof.Machine

/-- `CTXINIT root, count` (rule R131), in EMPTY only: stores the root as given and the count of cells to come; READY at
once when the count is 0. It does not touch `SNAP`, which is empty already. -/
def execCtxinit (root count : U64) (s : State) : Host.Outcome State Fault Refusal :=
  requirePhase .empty s
    (respond .done (s.initContext root count))

/-- `CELLWR paddr, raw` (rules R132, R133 and R135), in LOADING only: stores the cell whatever its value, in place of an
earlier one, and counts it; READY when no cell is still to come. Only a new key beyond the capacity is refused. -/
def execCellwr (paddr raw : U64) (s : State) : Host.Outcome State Fault Refusal :=
  requirePhase .loading s
    (if memRead s.snap paddr = none ∧ atCapacity s = true then .refused .capacity
     else respond .done (s.storeCell paddr raw))

/-- `LOOKUP paddr` (rules R134 and R135), in READY only: responds the cell at exactly that key, present or not, or
`None`. `b` is ignored (rule R80). -/
def execLookup (paddr _b : U64) (s : State) : Host.Outcome State Fault Refusal :=
  requirePhase .ready s (respond (.cell (memRead s.snap paddr)) s)

end Sys2Proof.Machine
end

