-- ==== Sys2Proof/Machine/VaDecomposer.lean ====
section
/-!
DEFINITION. The virtual-address decomposer: the operation `VADEC` (40_va_decomposer.md).
-/

namespace Sys2Proof.Machine

/-- `VADEC va` (rules R100 and R104): responds the six fields of `va`, in every phase; reads and writes no state. `b` is
ignored (rule R80). -/
def execVadec (va _b : U64) (s : State) : Host.Outcome State Fault Refusal :=
  respond (.vaFields (decomposeVA va)) s

end Sys2Proof.Machine
end

