-- ==== Sys2Proof/Machine/LargePageDetector.lean ====
section
/-!
DEFINITION. The large-page detector: the operation `LPDET` (42_large_page_detector.md). The short-circuit is always on
(rule R122).
-/

namespace Sys2Proof.Machine

/-- Rules R120 and R121: whether a descriptor read at a walk level maps a large page, and how many low bits of the
virtual address form the offset. Bit 7 counts at levels 2 and 3 only; no other bit is read, `present` among them. -/
def detectLargePage (raw : U64) : Level → LargePageVerdict
  | .one => { large := false, shift := 12 }
  | .two => if largePageBit raw then { large := true, shift := 30 } else { large := false, shift := 12 }
  | .three => if largePageBit raw then { large := true, shift := 21 } else { large := false, shift := 12 }
  | .four => { large := false, shift := 12 }

/-- `LPDET raw, level` (rules R120 and R124): responds the verdict, in every phase; reads and writes no state. A level
outside 1 to 4 is refused. -/
def execLpdet (raw level : U64) (s : State) : Host.Outcome State Fault Refusal :=
  match levelOf level with
  | some k => respond (.largePage (detectLargePage raw k)) s
  | none => .refused .badLevel

end Sys2Proof.Machine
end

