-- ==== Sys2Proof/Machine/Walker.lean ====
section
/-!
DEFINITION. The walker: the operation `XLATE` (44_walker.md). The four levels stand one by one, as in the unrolled form
of rule R140 and in rules R141 to R144; a walk makes at most four lookups and cannot loop (rules R50 and R146). Which
addresses it looks up and why it faults are kept in `Walk` for proofs; the response shows neither (rule R182).
-/

namespace Sys2Proof.Machine

/-- Rule R140: a walk that ends here, with no further lookup. -/
def endWalk (e : WalkEnd) : Walk := { reads := [], ending := e }

/-- One level of rule R140: look up the entry that the level's index selects in the table at `base`; absent or not
present ends the walk (rules R145 and R147), else `go` says what becomes of the usable descriptor. -/
def visitLevel (m : Memory) (f : VAFields) (level : Level) (base : U64) (go : U64 → Walk) : Walk :=
  let addr := entryAddress base (levelIndex f level)
  let tail :=
    match usable (memRead m addr) with
    | .error why => endWalk (.fault { level := level, why := why })
    | .ok d => go d
  { tail with reads := addr :: tail.reads }

/-- The end of rule R140's loop body at a terminal descriptor: `TBASE(d) + va[shift-1:0]`, with the detector's shift. -/
def terminal (va d : U64) (level : Level) : Walk :=
  endWalk (.ok (pageAddress d va (detectLargePage d level).shift.toNat))

/-- Rule R144: level 4, the leaf; every usable descriptor is terminal and bit 7 is not looked at. -/
def walkLevel4 (m : Memory) (va base : U64) : Walk :=
  visitLevel m (decomposeVA va) .four base fun d => terminal va d .four

/-- Rule R143: level 3; a large page of 2 MB is terminal. -/
def walkLevel3 (m : Memory) (va base : U64) : Walk :=
  visitLevel m (decomposeVA va) .three base fun d =>
    if (detectLargePage d .three).large then terminal va d .three else walkLevel4 m va (tableBase d)

/-- Rule R142: level 2; a large page of 1 GB is terminal. -/
def walkLevel2 (m : Memory) (va base : U64) : Walk :=
  visitLevel m (decomposeVA va) .two base fun d =>
    if (detectLargePage d .two).large then terminal va d .two else walkLevel3 m va (tableBase d)

/-- Rule R141: level 1, the top; a descriptor here is never a large page. -/
def walkLevel1 (m : Memory) (va base : U64) : Walk :=
  visitLevel m (decomposeVA va) .one base fun d => walkLevel2 m va (tableBase d)

/-- Rule R140: the walk of a virtual address through the tables that `root` leads to. `root` is used as given (rule
R47). -/
def walk (m : Memory) (root va : U64) : Walk := walkLevel1 m va root

/-- Rules R79 and R182: what the host is told of a walk's end. A Fault is the bare Fault, whatever its cause. -/
def WalkEnd.deliver (e : WalkEnd) (s : State) : Host.Outcome State Fault Refusal :=
  match e with
  | .ok pa => respond (.ok pa) s
  | .fault _ => takeFault s

/-- `XLATE va` (rules R140, R149 and R155), in READY only: responds `OK(pa)` or `Fault`; no state changes. `b` is
ignored (rule R80). -/
def execXlate (va _b : U64) (s : State) : Host.Outcome State Fault Refusal :=
  requirePhase .ready s ((walk s.snap s.root va).ending.deliver s)

end Sys2Proof.Machine
end

