-- ==== Sys2Proof/Machine/Dispatch.lean ====
section
/-!
DEFINITION. The meaning of each operation: one arm per constructor of `Instr`, one direct call each.
-/

namespace Sys2Proof.Machine

/-- The effect of one operation on the state (rule R9: atomic). -/
def exec (i : Instr) (s : State) : Host.Outcome State Fault Refusal :=
  match i with
  | .ctxinit root count => Sys2Proof.Machine.execCtxinit root count s
  | .cellwr paddr raw => Sys2Proof.Machine.execCellwr paddr raw s
  | .xlate va b => Sys2Proof.Machine.execXlate va b s
  | .vadec va b => Sys2Proof.Machine.execVadec va b s
  | .pddec raw b => Sys2Proof.Machine.execPddec raw b s
  | .lpdet raw level => Sys2Proof.Machine.execLpdet raw level s
  | .lookup paddr b => Sys2Proof.Machine.execLookup paddr b s

end Sys2Proof.Machine
end

