-- ==== Sys2Proof/Machine/Step.lean ====
section
/-!
DEFINITION. One step: one event of the command port (rules R9 and R27).
-/

namespace Sys2Proof.Machine

/-- One step (rule R9): take the next event of the port and do what it says: an operation, the reset event, nothing when
the port is empty. A reserved code is refused (rule R73). -/
def step (s : State) : Host.Outcome State Fault Refusal :=
  match fetch s with
  | .idle => waitForHost s
  | .reset s' => .next s'.applyReset
  | .run i s' => exec i s'
  | .refused r => .refused r

/-- The host's interface: `s` with the instruction whose bits are `w` as the next event of the port (log entry 6). -/
def State.withFetchWord (s : State) (nbits w : Nat) : State := issueTableWord s nbits w

end Sys2Proof.Machine
end

