-- ==== Sys2Proof/Machine/HostText.lean ====
section
/-!
DEFINITION. The host's side of the text format (rules R84 to R88), which is outside the block (rule R4): no step uses
it. Files and flushing are not here (log entry 10).
-/

namespace Sys2Proof.Machine

/-- Rule R84: the maximal runs of characters that are not white space; `word` holds the one being read, reversed. -/
def splitTokens : List Char → List Char → List (List Char)
  | word, [] => if word.isEmpty then [] else [word.reverse]
  | word, c :: rest =>
    if c.isWhitespace then (if word.isEmpty then splitTokens [] rest else word.reverse :: splitTokens [] rest)
    else splitTokens (c :: word) rest

/-- Rule R85: a decimal numeral continued from the value `n`; `none` at any character that is no decimal digit. -/
def decimalFrom (n : Nat) : List Char → Option Nat
  | [] => some n
  | c :: rest => if c.isDigit then decimalFrom (10 * n + (c.toNat - '0'.toNat)) rest else none

/-- Rule R85: an unsigned 64-bit integer in decimal: digits only, at least one, the value below 2^64. Leading zeros are
accepted (DESIGN CHOICE, log entry 10). -/
def readNumber (token : List Char) : Option U64 :=
  match token with
  | [] => none
  | c :: rest =>
    match decimalFrom 0 (c :: rest) with
    | some n => if n < 2 ^ 64 then some (BitVec.ofNat 64 n) else none
    | none => none

/-- Rule R85: all the numbers of a token stream; `none` when one token is not a number (MalformedInput, rule R186). -/
def readNumbers : List (List Char) → Option (List U64)
  | [] => some []
  | token :: rest =>
    match readNumber token, readNumbers rest with
    | some n, some ns => some (n :: ns)
    | _, _ => none

/-- The first `n` cell lines of a token stream, and the tokens after them; `none` when there are too few. -/
def takeCells : Nat → List U64 → Option (List (U64 × U64) × List U64)
  | 0, rest => some ([], rest)
  | n + 1, paddr :: raw :: rest =>
    match takeCells n rest with
    | some (cells, rest') => some ((paddr, raw) :: cells, rest')
    | none => none
  | _ + 1, _ => none

/-- Rules R84 and R85: the dataset a token stream stands for. Where there are too few or too many tokens it is the
loader's MalformedInput and never reaches the block (rule R186; too many: DESIGN CHOICE, log entry 10). -/
def parseTokens : List U64 → Option Dataset
  | cellCount :: queryCount :: root :: rest =>
    match takeCells cellCount.toNat rest with
    | some (cells, queries) =>
      if queries.length = queryCount.toNat then some { root := root, cells := cells, queries := queries } else none
    | none => none
  | _ => none

/-- Rules R84 and R85: the dataset a text stands for. The text's line breaks are white space and no more. -/
def readDataset (text : List Char) : Option Dataset :=
  match readNumbers (splitTokens [] text) with
  | some numbers => parseTokens numbers
  | none => none

/-- Rules R84 and R87: the token stream of a dataset. `queryCount` is for the host alone (rule R173). -/
def Dataset.tokens (d : Dataset) : List U64 :=
  BitVec.ofNat 64 d.cells.length :: BitVec.ofNat 64 d.queries.length :: d.root ::
    (d.cells.flatMap (fun c => [c.1, c.2]) ++ d.queries)

/-- Rule R85: a number as a token. -/
def decimalToken (n : U64) : List Char := Nat.toDigits 10 n.toNat

/-- Rule R84: one line of a dataset's text: its tokens with a space between them, and a line feed. -/
def textLine : List U64 → List Char
  | [] => ['\n']
  | [n] => decimalToken n ++ ['\n']
  | n :: m :: rest => decimalToken n ++ ' ' :: textLine (m :: rest)

/-- Rule R84: the text of a dataset in the layout of the rule: the header line, one line a cell, one line a query. -/
def Dataset.text (d : Dataset) : List Char :=
  textLine [BitVec.ofNat 64 d.cells.length, BitVec.ofNat 64 d.queries.length, d.root] ++
    (d.cells.flatMap (fun c => textLine [c.1, c.2]) ++ d.queries.flatMap (fun va => textLine [va]))

/-- Rule R87: the operations a dataset assembles to, one per logical line, in order; `queryCount` is not sent. The
ignored operand of `XLATE` is sent as 0 (DESIGN CHOICE, log entry 10). -/
def Dataset.commands (d : Dataset) : List Instr :=
  .ctxinit d.root (BitVec.ofNat 64 d.cells.length) ::
    (d.cells.map (fun c => .cellwr c.1 c.2) ++ d.queries.map (fun va => .xlate va 0))

/-- Rule R86: the output line of a query's response: the decimal physical address, or `fault`. The other operations have
no text form (rule R87). -/
def Response.line : Response → Option String
  | .ok pa => some (toString pa.toNat)
  | .fault => some "fault"
  | .done => none
  | .vaFields _ => none
  | .descriptor _ => none
  | .largePage _ => none
  | .cell _ => none

/-- Rule R86: the output of a run, one line per query, in order. -/
def outputLines (rs : List Response) : List String := rs.filterMap Response.line

/-- Rule R88: an operand as a hexadecimal numeral. -/
def hexNumeral (v : U64) : String := "0x" ++ String.ofList ((Nat.toDigits 16 v.toNat).map Char.toUpper)

/-- Rule R88: an operation as one line of the spec's listings; an ignored operand is not written (rule R70). -/
def listingLine : Instr → String
  | .ctxinit root count => "CTXINIT " ++ hexNumeral root ++ ", " ++ hexNumeral count
  | .cellwr paddr raw => "CELLWR " ++ hexNumeral paddr ++ ", " ++ hexNumeral raw
  | .xlate va _ => "XLATE " ++ hexNumeral va
  | .vadec va _ => "VADEC " ++ hexNumeral va
  | .pddec raw _ => "PDDEC " ++ hexNumeral raw
  | .lpdet raw level => "LPDET " ++ hexNumeral raw ++ ", " ++ hexNumeral level
  | .lookup paddr _ => "LOOKUP " ++ hexNumeral paddr

end Sys2Proof.Machine
end

