-- ==== Sys2Proof/Safety.lean ====
section
/-!
DEFINITION. The terms the statements are written in: runs, what the port offers, the invariant of the machine's
states, and the spec's own descriptions of a translation and of a run, written from the rules a second time, with
shifts and masks and without the machine's functions, so that a statement compares two texts and not one with itself.
-/

namespace Sys2Proof.Machine

/-- `k` steps of the machine, stopping at the first refusal. -/
def run (k : Nat) (s : State) : Host.Outcome State Fault Refusal := Sys2Proof.core.run k s

/-- The next event of the port is a command word that decodes to `i`. -/
def Offers (s : State) (i : Instr) : Prop := ∃ w rest, s.port = .command w :: rest ∧ decode w = .ok i

/-- The next event of the port is the reset event (rule R200). -/
def OffersReset (s : State) : Prop := ∃ rest, s.port = .reset :: rest

/-- The next event of the port is a command word with a code of rule R73: 0x0, or 0x8 to 0xF. -/
def OffersReserved (s : State) : Prop :=
  ∃ w rest, s.port = .command w :: rest ∧ ((w >>> 128).toNat = 0 ∨ 8 ≤ (w >>> 128).toNat)

/-- Rule R74, the table: in which phases an operation is accepted. -/
def acceptedIn : Instr → Phase → Bool
  | .ctxinit _ _, .empty => true
  | .ctxinit _ _, .loading => false
  | .ctxinit _ _, .ready => false
  | .cellwr _ _, .empty => false
  | .cellwr _ _, .loading => true
  | .cellwr _ _, .ready => false
  | .xlate _ _, .empty => false
  | .xlate _ _, .loading => false
  | .xlate _ _, .ready => true
  | .lookup _ _, .empty => false
  | .lookup _ _, .loading => false
  | .lookup _ _, .ready => true
  | .vadec _ _, _ => true
  | .pddec _ _, _ => true
  | .lpdet _ _, _ => true

/-- Rule R70: the responses an operation may give. -/
def givesResponse : Instr → Response → Prop
  | .ctxinit _ _, r => r = .done
  | .cellwr _ _, r => r = .done
  | .xlate _ _, r => r = .fault ∨ ∃ pa, r = .ok pa
  | .vadec _ _, r => ∃ f, r = .vaFields f
  | .pddec _ _, r => ∃ f, r = .descriptor f
  | .lpdet _ _, r => ∃ v, r = .largePage v
  | .lookup _ _, r => ∃ c, r = .cell c

/-- What holds in every state a run reaches: the snapshot is in canonical form and within the capacity (rule R136), it
is empty in EMPTY (rule R131's comment), `REMAIN` is at least 1 throughout LOADING (rule R132's comment) and 0
throughout READY (rule R24). -/
structure Consistent (s : State) : Prop where
  canonical : s.snap.wf = true
  emptyHasNoCell : s.phase = .empty → s.snap = []
  loadingAwaitsCells : s.phase = .loading → s.remain ≠ 0
  readyAwaitsNone : s.phase = .ready → s.remain = 0
  withinCapacity : ∀ c, s.config.snapCapacity = some c → memSize s.snap ≤ c

/-! ## A translation, as the spec's text has it -/

/-- Rules R11 and R100: the index consumed at walk level `k` (1 to 4), `(va >> 39) & 0x1FF` down to
`(va >> 12) & 0x1FF`. -/
def specIndex (va : U64) (k : Nat) : U64 := (va >>> (48 - 9 * k)) &&& 0x1FF#64

/-- Rule R112: `TBASE(raw) = raw & 0x000FFFFFFFFFF000`. -/
def specBase (raw : U64) : U64 := raw &&& 0x000FFFFFFFFFF000#64

/-- Rule R140: the loop over the walk levels, in the order of the list, with the snapshot as any map from keys to
cells. -/
def specLoop (cells : U64 → Option U64) (va : U64) : List Nat → U64 → Response
  | [], _ => .fault
  | level :: rest, base =>
    match cells (base + specIndex va level * 8) with
    | none => .fault
    | some d =>
      if d &&& 1 = 0 then .fault
      else if level = 2 ∧ d &&& 0x80 ≠ 0 then .ok (specBase d + (va &&& 0x3FFFFFFF))
      else if level = 3 ∧ d &&& 0x80 ≠ 0 then .ok (specBase d + (va &&& 0x1FFFFF))
      else if level = 4 then .ok (specBase d + (va &&& 0xFFF))
      else specLoop cells va rest (specBase d)

/-- Rule R140: the response of `XLATE va` in the context of `root` and a snapshot. -/
def specTranslate (cells : U64 → Option U64) (root va : U64) : Response := specLoop cells va [1, 2, 3, 4] root

/-- Rule R114: the snapshot has the usable descriptor `d` at the address `a`. -/
def UsableAt (m : Memory) (a d : U64) : Prop := memRead m a = some d ∧ d &&& 1 = 1

/-- Rule R114: the entry at `a` is unusable, absent or not present. -/
def UnusableAt (m : Memory) (a : U64) : Prop := ∀ d, memRead m a = some d → d &&& 1 = 0

/-- Rules R141 to R144: the walk of `va` from `root` looks up the entry at the address `a` at walk level `k`. -/
inductive Reaches (m : Memory) (root va : U64) : Nat → U64 → Prop where
  | top : Reaches m root va 1 (root + specIndex va 1 * 8)
  | second {a d : U64} (at1 : Reaches m root va 1 a) (present : UsableAt m a d) :
      Reaches m root va 2 (specBase d + specIndex va 2 * 8)
  | third {a d : U64} (at2 : Reaches m root va 2 a) (present : UsableAt m a d) (small : d &&& 0x80 = 0) :
      Reaches m root va 3 (specBase d + specIndex va 3 * 8)
  | fourth {a d : U64} (at3 : Reaches m root va 3 a) (present : UsableAt m a d) (small : d &&& 0x80 = 0) :
      Reaches m root va 4 (specBase d + specIndex va 4 * 8)

/-- Rule R11: the number of a walk level. -/
def Level.number : Level → Nat
  | .one => 1
  | .two => 2
  | .three => 3
  | .four => 4

/-- Rule R121 and `LP_SHIFT` of rule R5: how many low bits of `va` are the offset when a walk ends at level `k`. -/
def specShift (k : Nat) : Nat := if k = 2 then 30 else if k = 3 then 21 else 12

/-- Rule R121: a usable descriptor `d` read at level `k` ends the walk. -/
def EndsWalk (k : Nat) (d : U64) : Prop := k = 4 ∨ (k = 2 ∨ k = 3) ∧ d &&& 0x80 ≠ 0

/-- Rule R148: the table's seven rows, by number: the reads made and the response. -/
inductive ResultRow (m : Memory) (root va : U64) : Fin 7 → List U64 → Response → Prop where
  | fault1 {a1 : U64} (h1 : a1 = root + specIndex va 1 * 8) (u1 : UnusableAt m a1) :
      ResultRow m root va 0 [a1] .fault
  | fault2 {a1 d1 a2 : U64} (h1 : a1 = root + specIndex va 1 * 8) (u1 : UsableAt m a1 d1)
      (h2 : a2 = specBase d1 + specIndex va 2 * 8) (u2 : UnusableAt m a2) :
      ResultRow m root va 1 [a1, a2] .fault
  | large2 {a1 d1 a2 d2 : U64} (h1 : a1 = root + specIndex va 1 * 8) (u1 : UsableAt m a1 d1)
      (h2 : a2 = specBase d1 + specIndex va 2 * 8) (u2 : UsableAt m a2 d2) (l2 : d2 &&& 0x80 ≠ 0) :
      ResultRow m root va 2 [a1, a2] (.ok (specBase d2 + (va &&& 0x3FFFFFFF)))
  | fault3 {a1 d1 a2 d2 a3 : U64} (h1 : a1 = root + specIndex va 1 * 8) (u1 : UsableAt m a1 d1)
      (h2 : a2 = specBase d1 + specIndex va 2 * 8) (u2 : UsableAt m a2 d2) (l2 : d2 &&& 0x80 = 0)
      (h3 : a3 = specBase d2 + specIndex va 3 * 8) (u3 : UnusableAt m a3) :
      ResultRow m root va 3 [a1, a2, a3] .fault
  | large3 {a1 d1 a2 d2 a3 d3 : U64} (h1 : a1 = root + specIndex va 1 * 8) (u1 : UsableAt m a1 d1)
      (h2 : a2 = specBase d1 + specIndex va 2 * 8) (u2 : UsableAt m a2 d2) (l2 : d2 &&& 0x80 = 0)
      (h3 : a3 = specBase d2 + specIndex va 3 * 8) (u3 : UsableAt m a3 d3) (l3 : d3 &&& 0x80 ≠ 0) :
      ResultRow m root va 4 [a1, a2, a3] (.ok (specBase d3 + (va &&& 0x1FFFFF)))
  | fault4 {a1 d1 a2 d2 a3 d3 a4 : U64} (h1 : a1 = root + specIndex va 1 * 8) (u1 : UsableAt m a1 d1)
      (h2 : a2 = specBase d1 + specIndex va 2 * 8) (u2 : UsableAt m a2 d2) (l2 : d2 &&& 0x80 = 0)
      (h3 : a3 = specBase d2 + specIndex va 3 * 8) (u3 : UsableAt m a3 d3) (l3 : d3 &&& 0x80 = 0)
      (h4 : a4 = specBase d3 + specIndex va 4 * 8) (u4 : UnusableAt m a4) :
      ResultRow m root va 5 [a1, a2, a3, a4] .fault
  | page4 {a1 d1 a2 d2 a3 d3 a4 d4 : U64} (h1 : a1 = root + specIndex va 1 * 8) (u1 : UsableAt m a1 d1)
      (h2 : a2 = specBase d1 + specIndex va 2 * 8) (u2 : UsableAt m a2 d2) (l2 : d2 &&& 0x80 = 0)
      (h3 : a3 = specBase d2 + specIndex va 3 * 8) (u3 : UsableAt m a3 d3) (l3 : d3 &&& 0x80 = 0)
      (h4 : a4 = specBase d3 + specIndex va 4 * 8) (u4 : UsableAt m a4 d4) :
      ResultRow m root va 6 [a1, a2, a3, a4] (.ok (specBase d4 + (va &&& 0xFFF)))

/-- Rules R81, R113 and R114: what the walk can see of a lookup's result: nothing of an unusable one, and of a usable
descriptor its frame and bit 7. -/
def visible : Option U64 → Option U64
  | none => none
  | some d => if d &&& 1 = 0 then none else some (d &&& 0x000FFFFFFFFFF080#64)

/-! ## A run, as the spec's text has it -/

/-- Rules R133 and R175, `snap(cells)`: the value of the last cell with the key `p`, if any. -/
def lastWrite : List (U64 × U64) → U64 → Option U64
  | [], _ => none
  | (q, v) :: rest, p =>
    match lastWrite rest p with
    | some w => some w
    | none => if q = p then some v else none

/-- Rule R170: an operation that may be mixed in anywhere. -/
def isPure : Instr → Bool
  | .vadec _ _ => true
  | .pddec _ _ => true
  | .lpdet _ _ => true
  | .ctxinit _ _ => false
  | .cellwr _ _ => false
  | .xlate _ _ => false
  | .lookup _ _ => false

/-- Rule R170: a `CELLWR`. -/
def isCell : Instr → Bool
  | .cellwr _ _ => true
  | .ctxinit _ _ => false
  | .xlate _ _ => false
  | .vadec _ _ => false
  | .pddec _ _ => false
  | .lpdet _ _ => false
  | .lookup _ _ => false

/-- Rule R170: an operation that reads the loaded snapshot. -/
def isQuery : Instr → Bool
  | .xlate _ _ => true
  | .lookup _ _ => true
  | .ctxinit _ _ => false
  | .cellwr _ _ => false
  | .vadec _ _ => false
  | .pddec _ _ => false
  | .lpdet _ _ => false

/-- Rule R170: a sequence of operations that is a well-formed run or the beginning of one. Leaving the pure operations
out (whose levels are legal), it is empty, or one `CTXINIT(root, n)`, then `CELLWR`s, at most `n` of them, and, once
there are `n`, any queries. -/
def BeginsWellFormedRun (is : List Instr) : Prop :=
  (∀ i ∈ is, wellFormed i = true) ∧
  (is.filter (fun i => !isPure i) = [] ∨
    ∃ root n cells queries,
      is.filter (fun i => !isPure i) = .ctxinit root n :: (cells ++ queries) ∧
      (∀ c ∈ cells, isCell c = true) ∧ (∀ q ∈ queries, isQuery q = true) ∧
      (cells.length = n.toNat ∨ cells.length < n.toNat ∧ queries = []))

/-- The addresses a sequence of operations asks to translate, in order. -/
def queriedAddresses : List Instr → List U64
  | [] => []
  | .xlate va _ :: rest => va :: queriedAddresses rest
  | .ctxinit _ _ :: rest => queriedAddresses rest
  | .cellwr _ _ :: rest => queriedAddresses rest
  | .vadec _ _ :: rest => queriedAddresses rest
  | .pddec _ _ :: rest => queriedAddresses rest
  | .lpdet _ _ :: rest => queriedAddresses rest
  | .lookup _ _ :: rest => queriedAddresses rest

/-- The keys a sequence of operations writes, in order and with repeats. -/
def writtenKeys : List Instr → List U64
  | [] => []
  | .cellwr paddr _ :: rest => paddr :: writtenKeys rest
  | .ctxinit _ _ :: rest => writtenKeys rest
  | .xlate _ _ :: rest => writtenKeys rest
  | .vadec _ _ :: rest => writtenKeys rest
  | .pddec _ _ :: rest => writtenKeys rest
  | .lpdet _ _ :: rest => writtenKeys rest
  | .lookup _ _ :: rest => writtenKeys rest

/-- Rule R213, premise (3): the capacity is unbounded or at least the number of distinct keys of a list. -/
def HoldsDistinct (s : State) (keys : List U64) : Prop :=
  ∀ c, s.config.snapCapacity = some c → keys.dedup.length ≤ c

/-- The responses that are results of translations (rule R8's `Result`), in order. -/
def results : List Response → List Response
  | [] => []
  | .ok pa :: rest => .ok pa :: results rest
  | .fault :: rest => .fault :: results rest
  | .done :: rest => results rest
  | .vaFields _ :: rest => results rest
  | .descriptor _ :: rest => results rest
  | .largePage _ :: rest => results rest
  | .cell _ :: rest => results rest

/-- Two outcomes the host cannot tell apart by the responses it has had or by a refusal. -/
def SameForHost : Host.Outcome State Fault Refusal → Host.Outcome State Fault Refusal → Prop
  | .next s, .next t => s.responses = t.responses
  | .refused r, .refused q => r = q
  | .next _, .refused _ => False
  | .refused _, .next _ => False

end Sys2Proof.Machine
end

