-- ==== Sys2Proof/Certificates/Slice0/Obligations.lean ====
section
/-!
DEFINITION. The statements for the provers. Names on the right of an equation that begin with `spec`, and `Reaches`,
`UsableAt`, `ResultRow`, `lastWrite` and `BeginsWellFormedRun`, are the spec's text written a second time in
Sys2Proof/Safety.lean.
-/

open Sys2Proof Sys2Proof.Machine

/-! ## Reset, the port and the step -/

/-- Rules R31 and R201: after reset `PHASE` is EMPTY and every key of `SNAP` is absent. -/
def Obligations.ResetHasNoContext : Prop :=
  State.reset.phase = .empty ∧ ∀ a, memRead State.reset.snap a = none

/-- Rule R200: the reset event leaves EMPTY and an empty snapshot, gives no response, and is accepted whatever the
state. That ROOT and REMAIN, which the spec leaves unspecified, take the values of `State.reset` is the model's choice
(log entry 5). -/
def Obligations.ResetEventBeginsNewRun : Prop :=
  ∀ (s : State) (rest : List HostEvent), s.port = .reset :: rest →
    ∃ t, step s = .next t ∧ t.phase = .empty ∧ (∀ a, memRead t.snap a = none) ∧
      t.root = State.reset.root ∧ t.remain = State.reset.remain ∧
      t.config = s.config ∧ t.port = rest ∧ t.responses = s.responses

/-- With nothing on the port the block waits (rule R202). The model's choice of what a step is then: log entry 1. -/
def Obligations.EmptyPortLeavesStateUnchanged : Prop :=
  ∀ s : State, s.port = [] → step s = .next s

/-- Rules R9 and R27: a step takes the first command word of the port and runs the operation it decodes to on the state
with that word taken off the port. -/
def Obligations.StepRunsDecodedCommand : Prop :=
  ∀ (s : State) (w : CmdWord) (rest : List HostEvent) (i : Instr),
    s.port = .command w :: rest → decode w = .ok i → step s = exec i { s with port := rest }

/-- The host's interface: the instruction word placed by `withFetchWord` is the one the next step runs, and what the
host still has to send stays (the model's choice, log entry 6). -/
def Obligations.PlacedWordRunsNext : Prop :=
  ∀ (s : State) (i : Instr) (nbits : Nat), 132 ≤ nbits →
    decodeTableWord nbits (encode i).toNat = some i ∧
    step (s.withFetchWord nbits (encode i).toNat) = exec i s

/-- Rules R9 and R25: an operation looks at no later event and at no earlier response, and it gives exactly one
response. -/
def Obligations.OperationsIgnorePortAndTranscript : Prop :=
  ∀ (i : Instr) (s : State) (p : List HostEvent) (rs : List Response),
    (∀ t, exec i s = .next t → t.port = s.port ∧
      ∃ r, t.responses = s.responses ++ [r] ∧
        exec i { s with port := p, responses := rs } = .next { t with port := p, responses := rs ++ [r] }) ∧
    (∀ r, exec i s = .refused r → exec i { s with port := p, responses := rs } = .refused r)

/-! ## The seven operations -/

/-- Rule R100, with its encoding: in every phase `VADEC` responds the six fields, by the rule's shifts and masks, and
nothing else changes. -/
def Obligations.VadecRespondsSixFields : Prop :=
  ∀ (va b : U64) (s : State),
    decode (0x4#4 ++ va ++ b) = .ok (.vadec va b) ∧
    exec (.vadec va b) s = .next
      { s with
        responses := s.responses ++
          [.vaFields
            { rsvd := (va >>> 48).setWidth 16
              ix1 := ((va >>> 39) &&& 0x1FF).setWidth 9
              ix2 := ((va >>> 30) &&& 0x1FF).setWidth 9
              ix3 := ((va >>> 21) &&& 0x1FF).setWidth 9
              ix4 := ((va >>> 12) &&& 0x1FF).setWidth 9
              offset := (va &&& 0xFFF).setWidth 12 }] }

/-- Rule R110, with its encoding: in every phase `PDDEC` responds the nine fields, and nothing else changes. -/
def Obligations.PddecRespondsNineFields : Prop :=
  ∀ (raw b : U64) (s : State),
    decode (0x5#4 ++ raw ++ b) = .ok (.pddec raw b) ∧
    exec (.pddec raw b) s = .next
      { s with
        responses := s.responses ++
          [.descriptor
            { present := decide (raw &&& 0x1 ≠ 0)
              writable := decide (raw &&& 0x2 ≠ 0)
              userAccessible := decide (raw &&& 0x4 ≠ 0)
              rsvd_6_3 := (raw >>> 3).setWidth 4
              largePage := decide (raw &&& 0x80 ≠ 0)
              rsvd_11_8 := (raw >>> 8).setWidth 4
              physicalFrame := (raw >>> 12).setWidth 40
              rsvd_62_52 := (raw >>> 52).setWidth 11
              executeDisabled := decide (raw &&& 0x8000000000000000 ≠ 0) }] }

/-- Rule R120, with its encoding: in every phase `LPDET` responds large and shift by the level and bit 7, nothing else
changes, and a level outside 1 to 4 is refused. -/
def Obligations.LpdetRespondsByLevelAndBitSeven : Prop :=
  ∀ (raw level : U64) (s : State),
    decode (0x6#4 ++ raw ++ level) = .ok (.lpdet raw level) ∧
    (level.toNat < 1 ∨ 4 < level.toNat → exec (.lpdet raw level) s = .refused .badLevel) ∧
    (1 ≤ level.toNat → level.toNat ≤ 4 →
      exec (.lpdet raw level) s = .next
        { s with
          responses := s.responses ++
            [.largePage
              (if level = 2 ∧ raw &&& 0x80 ≠ 0 then { large := true, shift := 30 }
               else if level = 3 ∧ raw &&& 0x80 ≠ 0 then { large := true, shift := 21 }
               else { large := false, shift := 12 })] })

/-- Rule R131, with its encoding: in EMPTY `CTXINIT` stores root and count and moves to LOADING, or to READY when the
count is 0; nothing else changes. In the other phases it is refused. -/
def Obligations.CtxinitCreatesContext : Prop :=
  ∀ (root count : U64) (s : State),
    decode (0x1#4 ++ root ++ count) = .ok (.ctxinit root count) ∧
    (s.phase = .empty →
      exec (.ctxinit root count) s = .next
        { s with
          root := root
          remain := count
          phase := if count = 0 then .ready else .loading
          responses := s.responses ++ [.done] }) ∧
    (s.phase ≠ .empty → exec (.ctxinit root count) s = .refused .badPhase)

/-- Rule R132, with its encoding: in LOADING `CELLWR` stores the cell at its key and at no other, counts it, and moves
to READY when none is left; nothing else changes. A new key beyond the capacity is refused, and so is every `CELLWR` in
another phase. -/
def Obligations.CellwrStoresOneCell : Prop :=
  ∀ (paddr raw : U64) (s : State),
    decode (0x2#4 ++ paddr ++ raw) = .ok (.cellwr paddr raw) ∧
    (s.phase = .loading →
      ¬(memRead s.snap paddr = none ∧ s.config.snapCapacity = some (memSize s.snap)) →
      ∃ t, exec (.cellwr paddr raw) s = .next t ∧
        memRead t.snap paddr = some raw ∧
        (∀ a, a ≠ paddr → memRead t.snap a = memRead s.snap a) ∧
        t.remain = s.remain - 1 ∧
        t.phase = (if s.remain - 1 = 0 then .ready else .loading) ∧
        t.root = s.root ∧ t.config = s.config ∧ t.port = s.port ∧
        t.responses = s.responses ++ [.done]) ∧
    (s.phase = .loading → memRead s.snap paddr = none → s.config.snapCapacity = some (memSize s.snap) →
      exec (.cellwr paddr raw) s = .refused .capacity) ∧
    (s.phase ≠ .loading → exec (.cellwr paddr raw) s = .refused .badPhase)

/-- Rule R134, with its encoding: in READY `LOOKUP` responds the cell at exactly that key, or None, and nothing else
changes; in the other phases it is refused. -/
def Obligations.LookupRespondsExactKey : Prop :=
  ∀ (paddr b : U64) (s : State),
    decode (0x7#4 ++ paddr ++ b) = .ok (.lookup paddr b) ∧
    (s.phase = .ready →
      exec (.lookup paddr b) s = .next
        { s with responses := s.responses ++ [.cell (memRead s.snap paddr)] }) ∧
    (s.phase ≠ .ready → exec (.lookup paddr b) s = .refused .badPhase)

/-- Rule R140, with its encoding: in READY `XLATE` responds what the rule's loop over the levels 1, 2, 3, 4 responds,
and nothing else changes; in the other phases it is refused. -/
def Obligations.XlateRespondsAsTheLoop : Prop :=
  ∀ (va b : U64) (s : State),
    decode (0x3#4 ++ va ++ b) = .ok (.xlate va b) ∧
    (s.phase = .ready →
      exec (.xlate va b) s = .next
        { s with responses := s.responses ++ [specTranslate (memRead s.snap) s.root va] }) ∧
    (s.phase ≠ .ready → exec (.xlate va b) s = .refused .badPhase)

/-- Rule R80: an ignored operand may hold any value. -/
def Obligations.IgnoredOperandHasNoEffect : Prop :=
  ∀ (a b b' : U64) (s : State),
    exec (.xlate a b) s = exec (.xlate a b') s ∧ exec (.vadec a b) s = exec (.vadec a b') s ∧
    exec (.pddec a b) s = exec (.pddec a b') s ∧ exec (.lookup a b) s = exec (.lookup a b') s

/-- Rules R104, R115 and R124: `VADEC` responds from `va` alone and `PDDEC` from `raw` alone, whatever the ignored operand
and the state, `LPDET` from bit 7 and the level alone, and they change nothing; `TBASE`, which is no operation, is given by
an expression in `raw` alone. -/
def Obligations.PureOperationsDependOnOperandsOnly : Prop :=
  (∀ va : U64, ∃ r, ∀ (b : U64) (s : State),
    exec (.vadec va b) s = .next { s with responses := s.responses ++ [r] }) ∧
  (∀ raw : U64, ∃ r, ∀ (b : U64) (s : State),
    exec (.pddec raw b) s = .next { s with responses := s.responses ++ [r] }) ∧
  (∀ raw : U64, tableBase raw = specBase raw) ∧
  (∀ (bit7 : Bool) (level : U64), 1 ≤ level.toNat → level.toNat ≤ 4 →
    ∃ r, ∀ (raw : U64) (s : State), raw.getLsbD 7 = bit7 →
      exec (.lpdet raw level) s = .next { s with responses := s.responses ++ [r] })

/-! ## The walk -/

/-- Rule R148: every walk falls under exactly one of the seven rows, makes that row's reads and gives its response. -/
def Obligations.WalkEndsInExactlyOneRow : Prop :=
  ∀ (s : State) (va b : U64), s.phase = .ready →
    (∃! k : Fin 7, ∃ reads r, ResultRow s.snap s.root va k reads r) ∧
    ∀ k reads r, ResultRow s.snap s.root va k reads r →
      (walk s.snap s.root va).reads = reads ∧
      exec (.xlate va b) s = .next { s with responses := s.responses ++ [r] }

/-- Rule R181: `XLATE` responds Fault exactly when its walk has one, and then exactly one, of the eight causes; and it has
a cause exactly where the entry it reaches at that level is absent, or is there and not present. -/
def Obligations.FaultHasExactlyItsCause : Prop :=
  ∀ (s : State) (va b : U64), s.phase = .ready →
    (exec (.xlate va b) s = .next { s with responses := s.responses ++ [.fault] } ↔
      ∃! c, (walk s.snap s.root va).ending = .fault c) ∧
    ∀ c : FaultCause, (walk s.snap s.root va).ending = .fault c ↔
      ∃ a, Reaches s.snap s.root va c.level.number a ∧
        ((c.why = .absent ∧ memRead s.snap a = none) ∨
         (c.why = .notPresent ∧ ∃ d, memRead s.snap a = some d ∧ d &&& 1 = 0))

/-- Rule R154, and the exception's whole effect (rules R180 and R190): `XLATE` responds Fault, and changes nothing,
exactly when an entry the walk reaches is unusable. -/
def Obligations.XlateFaultsExactlyOnUnusableEntry : Prop :=
  ∀ (s : State) (va b : U64), s.phase = .ready →
    (exec (.xlate va b) s = .next { s with responses := s.responses ++ [.fault] } ↔
      ∃ k a, Reaches s.snap s.root va k a ∧ UnusableAt s.snap a)

/-- Rule R152: a chain of present entries with bit 7 clear at levels 2 and 3 translates to the leaf's base plus bits 11:0,
whatever bit 7 is at levels 1 and 4. The result is written in natural numbers. -/
def Obligations.FourLevelChainTranslates : Prop :=
  ∀ (s : State) (va b a4 d4 : U64), s.phase = .ready →
    Reaches s.snap s.root va 4 a4 → UsableAt s.snap a4 d4 →
    exec (.xlate va b) s = .next
      { s with
        responses := s.responses ++
          [.ok (BitVec.ofNat 64 (d4.toNat / 2 ^ 12 % 2 ^ 40 * 2 ^ 12 + va.toNat % 2 ^ 12))] }

/-- Rules R153 and R150: a present large page reached at level 2, or at level 3, translates to its base plus the virtual
address mod 2^30, or mod 2^21: the plain sum, with the frame neither checked nor masked. -/
def Obligations.LargePagesTranslateByPlainSum : Prop :=
  ∀ (s : State) (va b a d : U64), s.phase = .ready → UsableAt s.snap a d → d &&& 0x80 ≠ 0 →
    (Reaches s.snap s.root va 2 a →
      exec (.xlate va b) s = .next
        { s with
          responses := s.responses ++
            [.ok (BitVec.ofNat 64 (d.toNat / 2 ^ 12 % 2 ^ 40 * 2 ^ 12 + va.toNat % 2 ^ 30))] }) ∧
    (Reaches s.snap s.root va 3 a →
      exec (.xlate va b) s = .next
        { s with
          responses := s.responses ++
            [.ok (BitVec.ofNat 64 (d.toNat / 2 ^ 12 % 2 ^ 40 * 2 ^ 12 + va.toNat % 2 ^ 21))] })

/-- Rule R123: a descriptor that ends the walk of one address at level `k`, with shift `s`, ends the walk of every address
that shares its bits 47:s, and maps each to its base plus that address's bits s-1:0. -/
def Obligations.TerminalDescriptorCoversItsRegion : Prop :=
  ∀ (m : Memory) (root va : U64) (k : Nat) (a d : U64),
    Reaches m root va k a → UsableAt m a d → EndsWalk k d →
    ∀ va' : U64,
      va'.extractLsb' (specShift k) (48 - specShift k) = va.extractLsb' (specShift k) (48 - specShift k) →
      (walk m root va').reads = (walk m root va).reads ∧
      (walk m root va').ending = .ok (specBase d + (va'.extractLsb' 0 (specShift k)).setWidth 64)

/-- Rule R50: a walk makes one to four lookups, the `n`-th at walk level `n` and at the address the level before led to; a
fault at level `k` means `k` lookups, and a descriptor that ends the walk at level `k` means `k` lookups. -/
def Obligations.LookupsAreTheReachedEntriesInOrder : Prop :=
  ∀ (m : Memory) (root va : U64),
    1 ≤ (walk m root va).reads.length ∧ (walk m root va).reads.length ≤ 4 ∧
    (∀ (n : Nat) (a : U64), (walk m root va).reads[n]? = some a ↔ Reaches m root va (n + 1) a) ∧
    (∀ c, (walk m root va).ending = .fault c → (walk m root va).reads.length = c.level.number) ∧
    (∀ k a d, Reaches m root va k a → UsableAt m a d → EndsWalk k d → (walk m root va).reads.length = k)

/-- Rules R50 and R184: a translation depends on the cells it looks up and on no other. -/
def Obligations.WalkDependsOnLookedUpCellsOnly : Prop :=
  ∀ (m m' : Memory) (root va : U64),
    (∀ a ∈ (walk m root va).reads, memRead m' a = memRead m a) → walk m' root va = walk m root va

/-- Rules R81, R102, R113, R114 and R145: bits 63:48 of the address, reserved and permission bits of descriptors, every
other bit of a not-present one, and the difference between absent and not present never matter to `XLATE`. -/
def Obligations.IgnoredBitsNeverMatter : Prop :=
  ∀ (s s' : State) (va va' b b' : U64), s.phase = .ready → s'.phase = .ready → s.root = s'.root →
    (∀ a, visible (memRead s.snap a) = visible (memRead s'.snap a)) →
    va &&& 0x0000FFFFFFFFFFFF = va' &&& 0x0000FFFFFFFFFFFF →
    ∃ r, exec (.xlate va b) s = .next { s with responses := s.responses ++ [r] } ∧
      exec (.xlate va' b') s' = .next { s' with responses := s'.responses ++ [r] }

/-- Rule R149: `XLATE` changes nothing, its response is a function of (ROOT, SNAP, va[47:0]), and it gives the same
response after any operations of the same run. -/
def Obligations.XlateResponseIsFixedByContext : Prop :=
  (∀ (s s' : State) (va va' b b' : U64), s.phase = .ready → s'.phase = .ready → s.root = s'.root →
    (∀ a, memRead s.snap a = memRead s'.snap a) →
    va.setWidth 48 = va'.setWidth 48 →
    ∃ r, exec (.xlate va b) s = .next { s with responses := s.responses ++ [r] } ∧
      exec (.xlate va' b') s' = .next { s' with responses := s'.responses ++ [r] }) ∧
  (∀ (k : Nat) (s t : State) (va b b' : U64), s.phase = .ready → (∀ e ∈ s.port.take k, e ≠ .reset) →
    run k s = .next t →
    ∃ r, exec (.xlate va b) s = .next { s with responses := s.responses ++ [r] } ∧
      exec (.xlate va b') t = .next { t with responses := t.responses ++ [r] })

/-- Rule R155: in READY `XLATE` responds for every address, with exactly one of OK(pa) or Fault. -/
def Obligations.XlateAlwaysResponds : Prop :=
  ∀ (s : State) (va b : U64), s.phase = .ready →
    ∃ r, exec (.xlate va b) s = .next { s with responses := s.responses ++ [r] } ∧
      (r = .fault ∧ (∀ pa, r ≠ .ok pa) ∨ r ≠ .fault ∧ ∃! pa, r = .ok pa)

/-- Rule R135's law: a snapshot without its not-present cells gives every `XLATE` the same response. (A `LOOKUP` can tell the
two apart, as the rule says.) -/
def Obligations.FilteringNotPresentCellsIsInvisibleToXlate : Prop :=
  ∀ (s : State) (va b : U64), s.phase = .ready → s.snap.wf = true →
    ∃ r, exec (.xlate va b) s = .next { s with responses := s.responses ++ [r] } ∧
      exec (.xlate va b) { s with snap := s.snap.filter (fun c => c.2 &&& 1 ≠ 0) } = .next
        { s with
          snap := s.snap.filter (fun c => c.2 &&& 1 ≠ 0)
          responses := s.responses ++ [r] }

/-! ## Fields and addresses -/

/-- Rule R101: the fields of an address recombine to its low 48 bits, with `rsvd` to all 64, by `|` or `+`; and
decomposing recombined fields returns them. -/
def Obligations.AddressFieldsRecombine : Prop :=
  (∀ va : U64,
    let f := decomposeVA va
    let low := (f.ix1.setWidth 64 <<< 39) ||| (f.ix2.setWidth 64 <<< 30) ||| (f.ix3.setWidth 64 <<< 21) |||
      (f.ix4.setWidth 64 <<< 12) ||| f.offset.setWidth 64
    low = va &&& 0x0000FFFFFFFFFFFF ∧
    low = (f.ix1.setWidth 64 <<< 39) + (f.ix2.setWidth 64 <<< 30) + (f.ix3.setWidth 64 <<< 21) +
      (f.ix4.setWidth 64 <<< 12) + f.offset.setWidth 64 ∧
    (f.rsvd.setWidth 64 <<< 48) ||| low = va) ∧
  (∀ f : VAFields,
    decomposeVA ((f.rsvd.setWidth 64 <<< 48) ||| (f.ix1.setWidth 64 <<< 39) ||| (f.ix2.setWidth 64 <<< 30) |||
      (f.ix3.setWidth 64 <<< 21) ||| (f.ix4.setWidth 64 <<< 12) ||| f.offset.setWidth 64) = f)

/-- Rule R111: the nine fields of a descriptor recombine to it. -/
def Obligations.DescriptorFieldsRecombine : Prop :=
  ∀ raw : U64,
    let d := decodeDescriptor raw
    raw = (BitVec.ofNat 64 d.executeDisabled.toNat <<< 63) ||| (d.rsvd_62_52.setWidth 64 <<< 52) |||
      (d.physicalFrame.setWidth 64 <<< 12) ||| (d.rsvd_11_8.setWidth 64 <<< 8) |||
      (BitVec.ofNat 64 d.largePage.toNat <<< 7) ||| (d.rsvd_6_3.setWidth 64 <<< 3) |||
      (BitVec.ofNat 64 d.userAccessible.toNat <<< 2) ||| (BitVec.ofNat 64 d.writable.toNat <<< 1) |||
      BitVec.ofNat 64 d.present.toNat

/-- Rule R112: `TBASE` is the masked descriptor; bits 11:0 and 63:52 are 0, it is at most 0x000FFFFFFFFFF000, and no bit
outside the frame matters. -/
def Obligations.TableBaseIsMaskedFrame : Prop :=
  (∀ raw : U64,
    tableBase raw = (raw.extractLsb' 12 40).setWidth 64 <<< 12 ∧ tableBase raw = raw &&& 0x000FFFFFFFFFF000 ∧
    tableBase raw &&& 0xFFF0000000000FFF = 0 ∧
    (tableBase raw).toNat ≤ 0x000FFFFFFFFFF000 ∧
    (∀ raw' : U64, raw'.extractLsb' 12 40 = raw.extractLsb' 12 40 → tableBase raw' = tableBase raw)) ∧
  tableBase 0x2001 = 0x2000 ∧ tableBase 0xFFFFFFFFFFFFFFFF = 0x000FFFFFFFFFF000

/-- Rule R59: the bounds of table bases, entry addresses and results, and where a sum equals the bitwise or. -/
def Obligations.AddressesStayWithinBounds : Prop :=
  (∀ (d : U64) (ix : BitVec 9),
    (tableBase d).toNat ≤ 0x000FFFFFFFFFF000 ∧
    (entryAddress (tableBase d) ix).toNat = (tableBase d).toNat + ix.toNat * 8 ∧
    (entryAddress (tableBase d) ix).toNat ≤ 0x000FFFFFFFFFFFF8 ∧
    entryAddress (tableBase d) ix = tableBase d ||| scaledIndex ix) ∧
  (∀ d va : U64,
    pageAddress d va 12 = tableBase d ||| pageOffset va 12 ∧ (pageAddress d va 12).toNat ≤ 2 ^ 52 - 1 ∧
    (pageAddress d va 30).toNat = (tableBase d).toNat + va.toNat % 2 ^ 30 ∧
    (pageAddress d va 30).toNat < 2 ^ 52 + 2 ^ 30 ∧
    (pageAddress d va 21).toNat = (tableBase d).toNat + va.toNat % 2 ^ 21 ∧
    (pageAddress d va 21).toNat < 2 ^ 52 + 2 ^ 21) ∧
  (∃ d va : U64, pageAddress d va 30 ≠ tableBase d ||| pageOffset va 30) ∧
  (∃ d va : U64, pageAddress d va 21 ≠ tableBase d ||| pageOffset va 21) ∧
  (∀ (m : Memory) (root va pa : U64), (walk m root va).ending = .ok pa → pa.toNat < 2 ^ 52 + 2 ^ 30)

/-- Rules R45, R47, R50 and R52: the first lookup is at ROOT + ix1 * 8 modulo 2^64 with all bits of ROOT; every later one is
at the table base of the usable descriptor read before plus its scaled index, a multiple of 8 below 2^52. -/
def Obligations.OnlyTheFirstLookupUsesRoot : Prop :=
  ∀ (m : Memory) (root va : U64),
    (∀ a, (walk m root va).reads[0]? = some a → a.toNat = (root.toNat + va.toNat / 2 ^ 39 % 2 ^ 9 * 8) % 2 ^ 64) ∧
    (∀ (n : Nat) (a : U64), (walk m root va).reads[n + 1]? = some a →
      (∃ a' d, (walk m root va).reads[n]? = some a' ∧ UsableAt m a' d ∧ a = specBase d + specIndex va (n + 2) * 8) ∧
      a.toNat % 8 = 0 ∧ a.toNat < 2 ^ 52)

/-! ## What a step may change -/

/-- Rule R23: the only transitions of `PHASE`, and what is constant in READY. -/
def Obligations.PhaseChangesOnlyAsListed : Prop :=
  ∀ s t : State, step s = .next t →
    (OffersReset s → t.phase = .empty) ∧
    (∀ root n, Offers s (.ctxinit root n) →
      s.phase = .empty ∧ t.phase = (if n = 0 then .ready else .loading)) ∧
    (∀ p v, Offers s (.cellwr p v) →
      s.phase = .loading ∧ t.phase = (if t.remain = 0 then .ready else .loading)) ∧
    (¬OffersReset s → (∀ root n, ¬Offers s (.ctxinit root n)) → (∀ p v, ¬Offers s (.cellwr p v)) →
      t.phase = s.phase) ∧
    (s.phase = .ready → ¬OffersReset s → t.phase = .ready ∧ t.snap = s.snap ∧ t.root = s.root)

/-- Rule R22: `SNAP` is written only by `CELLWR` in LOADING, at one key, and but for reset no key is ever removed. -/
def Obligations.SnapshotWrittenOnlyByCellwr : Prop :=
  ∀ s t : State, step s = .next t → ¬OffersReset s →
    (∀ a, memRead s.snap a ≠ none → memRead t.snap a ≠ none) ∧
    (t.snap = s.snap ∨
      s.phase = .loading ∧ ∃ p v, Offers s (.cellwr p v) ∧ memRead t.snap p = some v ∧
        ∀ a, a ≠ p → memRead t.snap a = memRead s.snap a)

/-- Rules R21 and R24: but for reset, `ROOT` is written only by `CTXINIT`, with its operand as given, and `REMAIN` only by
`CTXINIT`, with its count, and by `CELLWR`, which lowers it by 1. The parameter is never written (the model's choice,
log entry 3). -/
def Obligations.RootAndRemainHaveTheirWritersOnly : Prop :=
  ∀ s t : State, step s = .next t →
    t.config = s.config ∧
    (∀ root n, Offers s (.ctxinit root n) → t.root = root ∧ t.remain = n) ∧
    (∀ p v, Offers s (.cellwr p v) → t.root = s.root ∧ t.remain = s.remain - 1) ∧
    (¬OffersReset s → (∀ root n, ¬Offers s (.ctxinit root n)) → (∀ p v, ¬Offers s (.cellwr p v)) →
      t.root = s.root ∧ t.remain = s.remain)

/-- Rules R10, R70 and R72: an accepted operation gives exactly one response, of its own kind; the reset event and the
idle port give none. Each step takes at most one event. -/
def Obligations.EachOperationGivesOneResponse : Prop :=
  ∀ s t : State, step s = .next t →
    t.port = s.port.tail ∧
    ((∃ i r, Offers s i ∧ givesResponse i r ∧ t.responses = s.responses ++ [r]) ∨
     ((OffersReset s ∨ s.port = []) ∧ t.responses = s.responses))

/-- Rules R73, R74 and R188: a step is refused exactly in the listed cases, with the listed reason. -/
def Obligations.RefusalsAreExactlyThoseListed : Prop :=
  ∀ (s : State) (r : Refusal),
    step s = .refused r ↔
      (r = .reservedOp ∧ OffersReserved s) ∨
      (r = .badPhase ∧ ∃ i, Offers s i ∧ acceptedIn i s.phase = false) ∨
      (r = .badLevel ∧ ∃ raw level, Offers s (.lpdet raw level) ∧ (level.toNat < 1 ∨ 4 < level.toNat)) ∨
      (r = .capacity ∧ s.phase = .loading ∧ ∃ p v, Offers s (.cellwr p v) ∧
        memRead s.snap p = none ∧ s.config.snapCapacity = some (memSize s.snap))

/-! ## Invariants -/

/-- `Consistent` (its fields cite their rules) holds after reset: EMPTY and no cell (rules R31 and R201), so within any
capacity (rule R136). The snapshot's canonical form is the model's representation (log entry 7). -/
def Obligations.ResetIsConsistent : Prop := Consistent State.reset

/-- Every step from a consistent state leads to a consistent state: the snapshot stays canonical (the model's
representation, log entry 7) and within the capacity, `REMAIN` stays above 0 in LOADING and 0 in READY, and EMPTY has no
cell. -/
def Obligations.StepKeepsConsistent : Prop :=
  ∀ s t : State, Consistent s → step s = .next t → Consistent t

/-- Rules R22, R53 and R206: until the next reset event the context is constant in READY, however many operations
follow, and responses once given stay. -/
def Obligations.ContextConstantWhileReady : Prop :=
  ∀ (k : Nat) (s t : State), s.phase = .ready → (∀ e ∈ s.port.take k, e ≠ .reset) → run k s = .next t →
    t.phase = .ready ∧ t.root = s.root ∧ t.remain = s.remain ∧ t.snap = s.snap ∧ t.config = s.config ∧
    ∃ rs, t.responses = s.responses ++ rs ∧ rs.length ≤ k

/-! ## Memory -/

/-- Two snapshots in canonical form that read alike are equal (the model's representation, log entry 7). -/
def Obligations.CanonicalSnapshotsThatReadAlikeAreEqual : Prop :=
  ∀ m m' : Memory, m.wf = true → m'.wf = true → (∀ a, memRead m a = memRead m' a) → m = m'

/-- Rule R133: after `CELLWR`s, no more than `REMAIN` counts, the snapshot holds at each key written the value of the last
of them, every other key is as before, and each of them has counted against `REMAIN`, a repeated key too. The capacity
need only hold the keys present and the distinct new ones (rule R132). -/
def Obligations.LastWriteWins : Prop :=
  ∀ (cells : List (U64 × U64)) (s : State) (rest : List HostEvent),
    Consistent s → s.phase = .loading → cells.length ≤ s.remain.toNat →
    (∀ c, s.config.snapCapacity = some c →
      memSize s.snap + ((cells.map Prod.fst).dedup.filter (fun p => memRead s.snap p = none)).length ≤ c) →
    s.port = commandsOf (cells.map (fun c => .cellwr c.1 c.2)) ++ rest →
    ∃ t, run cells.length s = .next t ∧ t.phase = (if t.remain = 0 then .ready else .loading) ∧
      t.root = s.root ∧ t.port = rest ∧ t.remain.toNat + cells.length = s.remain.toNat ∧
      ∀ p, memRead t.snap p = match lastWrite cells p with
        | some v => some v
        | none => memRead s.snap p

/-- Rule R207: two `CELLWR` with different addresses may change places: where one order is accepted the other is, also at a
finite capacity, and leads to the same state. -/
def Obligations.LoadOrderOfDistinctKeysIsFree : Prop :=
  ∀ (s t t' : State) (p q v w : U64), Consistent s → p ≠ q →
    exec (.cellwr p v) s = .next t → exec (.cellwr q w) t = .next t' →
    ∃ u, exec (.cellwr q w) s = .next u ∧ exec (.cellwr p v) u = .next t'

/-- Rule R136: with a finite capacity a `CELLWR` is refused exactly when its key is new and the snapshot full; otherwise
the snapshot stays within the capacity, grows by the one new key if the key is new, and no other cell is dropped. -/
def Obligations.CapacityNeverDropsCells : Prop :=
  ∀ (s : State) (p v : U64) (c : Nat), Consistent s → s.phase = .loading → s.config.snapCapacity = some c →
    (memSize s.snap = c ∧ memRead s.snap p = none → exec (.cellwr p v) s = .refused .capacity) ∧
    (¬(memSize s.snap = c ∧ memRead s.snap p = none) →
      ∃ t, exec (.cellwr p v) s = .next t ∧ memSize t.snap ≤ c ∧
        memSize t.snap = memSize s.snap + (if memRead s.snap p = none then 1 else 0) ∧
        ∀ a x, a ≠ p → memRead s.snap a = some x → memRead t.snap a = some x)

/-! ## Runs -/

/-- Rule R175: a well-formed run of rule R170, pure operations mixed in anywhere and lookups after loading, ends with
results that are, in order, the translations of its queries in the root and the map of the last writes; there is one
response per operation. The premises are rule R170's form of the run, and that the capacity holds its distinct keys. -/
def Obligations.RunIsFunctionOfRootCellsAndQueries : Prop :=
  ∀ (is : List Instr) (root n : U64) (cells : List (U64 × U64)) (queries : List Instr) (s : State)
    (rest : List HostEvent),
    s.phase = .empty → s.snap = [] → HoldsDistinct s (cells.map Prod.fst) →
    (∀ i ∈ is, wellFormed i = true) →
    is.filter (fun i => !isPure i) = .ctxinit root n :: (cells.map (fun c => .cellwr c.1 c.2) ++ queries) →
    cells.length = n.toNat → (∀ q ∈ queries, isQuery q = true) →
    s.port = commandsOf is ++ rest →
    ∃ t rs, run is.length s = .next t ∧
      t.phase = .ready ∧ t.root = root ∧ t.remain = 0 ∧ (∀ p, memRead t.snap p = lastWrite cells p) ∧
      t.port = rest ∧ t.responses = s.responses ++ rs ∧ rs.length = is.length ∧
      results rs = (queriedAddresses is).map (specTranslate (lastWrite cells) root)

/-- Rules R86, R87 and R175, with the premises of rule R213: the run of the commands a dataset assembles to gives an output
of one line per query: the decimal physical address, or `fault`. The dataset's text is the host's, outside the block; 0 as
the ignored operand sent is the model's choice (log entry 10). -/
def Obligations.DatasetRunGivesItsOutputText : Prop :=
  ∀ (d : Dataset) (s : State) (rest : List HostEvent), d.cells.length < 2 ^ 64 →
    s.phase = .empty → s.snap = [] → HoldsDistinct s (d.cells.map Prod.fst) →
    s.port = commandsOf d.commands ++ rest →
    ∃ t rs, run (1 + d.cells.length + d.queries.length) s = .next t ∧ t.responses = s.responses ++ rs ∧
      outputLines rs = d.queries.map (fun va =>
        match specTranslate (lastWrite d.cells) d.root va with
        | .ok pa => toString pa.toNat
        | _ => "fault")

/-- Rules R170, R74 and R136: from EMPTY with no cell, at any capacity, a sequence of operations runs without a refusal
exactly when it is a well-formed run or the beginning of one, and the capacity holds its distinct keys. -/
def Obligations.UnrefusedRunsAreTheWellFormed : Prop :=
  ∀ (is : List Instr) (s : State) (rest : List HostEvent),
    s.phase = .empty → s.snap = [] → s.port = commandsOf is ++ rest →
    ((∃ t, run is.length s = .next t) ↔ BeginsWellFormedRun is ∧ HoldsDistinct s (writtenKeys is))

/-- Rules R31 and R201: what ROOT and REMAIN hold in EMPTY cannot be observed, in however long a run; so the values the
model names for them (log entries 4 and 5) show in no response and in no refusal. -/
def Obligations.ResetValuesAreUnobservable : Prop :=
  ∀ (k : Nat) (s : State) (root remain : U64), s.phase = .empty →
    SameForHost (run k s) (run k { s with root := root, remain := remain })

/-! ## Encodings and text -/

/-- Rules R70, R71 and R73: decoding an encoded operation gives it back, every word that decodes is the encoding of what
it decodes to, and exactly the words with code 0x0 or 0x8 to 0xF are rejected. -/
def Obligations.DecodeAndEncodeAgree : Prop :=
  (∀ i : Instr, decode (encode i) = .ok i) ∧
  (∀ (w : CmdWord) (i : Instr), decode w = .ok i → encode i = w) ∧
  (∀ w : CmdWord, decode w = .error .reservedOp ↔ (w >>> 128).toNat = 0 ∨ 8 ≤ (w >>> 128).toNat)

/-- Words of 95_test_vectors.md's programs, and one of each remaining operation written out by rule R71. -/
def Obligations.SampleWordsDecode : Prop :=
  decode 0x100000000000010000000000000000004#132 = .ok (.ctxinit 0x1000 4) ∧
  decode 0x20000000000000000FFF0000000007FFF#132 = .ok (.cellwr 0x0 0xFFF0000000007FFF) ∧
  decode 0x3ABCD008000000FFF0000000000000000#132 = .ok (.xlate 0xABCD008000000FFF 0) ∧
  decode 0x40000123456789ABC0000000000000000#132 = .ok (.vadec 0x0000123456789ABC 0) ∧
  decode 0x500000000000100810000000000000000#132 = .ok (.pddec 0x10081 0) ∧
  decode 0x600000000000100810000000000000002#132 = .ok (.lpdet 0x10081 2) ∧
  decode 0x700000000000010000000000000000000#132 = .ok (.lookup 0x1000 0) ∧
  decode 0x000000000000010000000000000000004#132 = .error .reservedOp ∧
  decode 0x900000000000010000000000000000004#132 = .error .reservedOp

/-- Rules R84, R85 and R87: the tokens of a dataset, in their order, determine it. The token stream is the host's, outside
the block (log entry 10). -/
def Obligations.DatasetTokensParseBack : Prop :=
  ∀ d : Dataset, d.cells.length < 2 ^ 64 → d.queries.length < 2 ^ 64 → parseTokens d.tokens = some d

/-- Rule R86: one output line per query, in order: the decimal physical address on success, `fault` on a Fault. -/
def Obligations.OutputHasOneLinePerQuery : Prop :=
  ∀ rs : List Response, (∀ r ∈ rs, r = .fault ∨ ∃ pa, r = .ok pa) →
    (outputLines rs).length = rs.length ∧
    ∀ n : Nat, (∀ pa, rs[n]? = some (.ok pa) → (outputLines rs)[n]? = some (toString pa.toNat)) ∧
      (rs[n]? = some .fault → (outputLines rs)[n]? = some "fault")

/-- Rules R84 and R85: a dataset's text, its numbers in decimal and laid out as the rule shows, reads back as the dataset.
The text is the host's, outside the block (log entry 10). -/
def Obligations.DatasetTextReadsBack : Prop :=
  ∀ d : Dataset, d.cells.length < 2 ^ 64 → d.queries.length < 2 ^ 64 → readDataset d.text = some d
end

