-- ==== Sys2Proof/Laws/Encoding.lean ====
section
/-!
SUPPORT. A command word and its three fields, as numbers, and that putting a word together and taking it apart undo each
other.
-/

namespace Sys2Proof

/-- A command word as a number: the operation code, then `a`, then `b` (rule R71). -/
theorem commandWord_toNat (op : BitVec 4) (a b : U64) :
    (commandWord op a b).toNat = op.toNat * 2 ^ 128 + a.toNat * 2 ^ 64 + b.toNat := by
  have h : (commandWord op a b).toNat = (op.toNat <<< 64 ||| a.toNat) <<< 64 ||| b.toNat := by
    simp only [commandWord, BitVec.toNat_append]
  rw [h, ← Nat.shiftLeft_add_eq_or_of_lt a.isLt, ← Nat.shiftLeft_add_eq_or_of_lt b.isLt]
  simp only [Nat.shiftLeft_eq]
  ring

/-- The fields of a word as numbers. -/
theorem opField_toNat (w : CmdWord) : (opField w).toNat = w.toNat / 2 ^ 128 := by
  have h := w.isLt
  simp only [opField, BitVec.extractLsb'_toNat, Nat.shiftRight_eq_div_pow]
  omega

theorem aField_toNat (w : CmdWord) : (aField w).toNat = w.toNat / 2 ^ 64 % 2 ^ 64 := by
  simp only [aField, BitVec.extractLsb'_toNat, Nat.shiftRight_eq_div_pow]

theorem bField_toNat (w : CmdWord) : (bField w).toNat = w.toNat % 2 ^ 64 := by
  simp only [bField, BitVec.extractLsb'_toNat, Nat.shiftRight_zero]

/-- Taking a word's fields gives what it was put together from. -/
@[simp] theorem opField_commandWord (op : BitVec 4) (a b : U64) : opField (commandWord op a b) = op := by
  have ha := a.isLt
  have hb := b.isLt
  apply BitVec.eq_of_toNat_eq
  rw [opField_toNat, commandWord_toNat]
  omega

@[simp] theorem aField_commandWord (op : BitVec 4) (a b : U64) : aField (commandWord op a b) = a := by
  have ha := a.isLt
  have hb := b.isLt
  apply BitVec.eq_of_toNat_eq
  rw [aField_toNat, commandWord_toNat]
  omega

@[simp] theorem bField_commandWord (op : BitVec 4) (a b : U64) : bField (commandWord op a b) = b := by
  have ha := a.isLt
  have hb := b.isLt
  apply BitVec.eq_of_toNat_eq
  rw [bField_toNat, commandWord_toNat]
  omega

/-- A word is put together again from its fields. -/
@[simp] theorem commandWord_fields (w : CmdWord) : commandWord (opField w) (aField w) (bField w) = w := by
  have h := w.isLt
  apply BitVec.eq_of_toNat_eq
  rw [commandWord_toNat, opField_toNat, aField_toNat, bField_toNat]
  omega

end Sys2Proof
end

