-- ==== Sys2Proof/Laws/State.lean ====
section
/-!
SUPPORT. One lemma per field per update of State, so that no later proof unfolds an update, and the fields of the
state after reset.
-/

namespace Sys2Proof.Machine

@[simp] theorem State.addResponse_phase (s : State) (r : Response) : (s.addResponse r).phase = s.phase := rfl
@[simp] theorem State.addResponse_root (s : State) (r : Response) : (s.addResponse r).root = s.root := rfl
@[simp] theorem State.addResponse_remain (s : State) (r : Response) : (s.addResponse r).remain = s.remain := rfl
@[simp] theorem State.addResponse_snap (s : State) (r : Response) : (s.addResponse r).snap = s.snap := rfl
@[simp] theorem State.addResponse_config (s : State) (r : Response) : (s.addResponse r).config = s.config := rfl
@[simp] theorem State.addResponse_port (s : State) (r : Response) : (s.addResponse r).port = s.port := rfl
@[simp] theorem State.addResponse_responses (s : State) (r : Response) : (s.addResponse r).responses = s.responses ++ [r] := rfl

@[simp] theorem State.initContext_phase (s : State) (root count : U64) : (s.initContext root count).phase = phaseAfter count := rfl
@[simp] theorem State.initContext_root (s : State) (root count : U64) : (s.initContext root count).root = root := rfl
@[simp] theorem State.initContext_remain (s : State) (root count : U64) : (s.initContext root count).remain = count := rfl
@[simp] theorem State.initContext_snap (s : State) (root count : U64) : (s.initContext root count).snap = s.snap := rfl
@[simp] theorem State.initContext_config (s : State) (root count : U64) : (s.initContext root count).config = s.config := rfl
@[simp] theorem State.initContext_port (s : State) (root count : U64) : (s.initContext root count).port = s.port := rfl
@[simp] theorem State.initContext_responses (s : State) (root count : U64) : (s.initContext root count).responses = s.responses := rfl

@[simp] theorem State.storeCell_phase (s : State) (paddr raw : U64) : (s.storeCell paddr raw).phase = phaseAfter (s.remain - 1) := rfl
@[simp] theorem State.storeCell_root (s : State) (paddr raw : U64) : (s.storeCell paddr raw).root = s.root := rfl
@[simp] theorem State.storeCell_remain (s : State) (paddr raw : U64) : (s.storeCell paddr raw).remain = s.remain - 1 := rfl
@[simp] theorem State.storeCell_snap (s : State) (paddr raw : U64) : (s.storeCell paddr raw).snap = memWrite s.snap paddr raw := rfl
@[simp] theorem State.storeCell_config (s : State) (paddr raw : U64) : (s.storeCell paddr raw).config = s.config := rfl
@[simp] theorem State.storeCell_port (s : State) (paddr raw : U64) : (s.storeCell paddr raw).port = s.port := rfl
@[simp] theorem State.storeCell_responses (s : State) (paddr raw : U64) : (s.storeCell paddr raw).responses = s.responses := rfl

@[simp] theorem State.withPort_phase (s : State) (rest : List HostEvent) : (s.withPort rest).phase = s.phase := rfl
@[simp] theorem State.withPort_root (s : State) (rest : List HostEvent) : (s.withPort rest).root = s.root := rfl
@[simp] theorem State.withPort_remain (s : State) (rest : List HostEvent) : (s.withPort rest).remain = s.remain := rfl
@[simp] theorem State.withPort_snap (s : State) (rest : List HostEvent) : (s.withPort rest).snap = s.snap := rfl
@[simp] theorem State.withPort_config (s : State) (rest : List HostEvent) : (s.withPort rest).config = s.config := rfl
@[simp] theorem State.withPort_port (s : State) (rest : List HostEvent) : (s.withPort rest).port = rest := rfl
@[simp] theorem State.withPort_responses (s : State) (rest : List HostEvent) : (s.withPort rest).responses = s.responses := rfl

@[simp] theorem State.applyReset_phase (s : State) : (s.applyReset).phase = .empty := rfl
@[simp] theorem State.applyReset_root (s : State) : (s.applyReset).root = State.reset.root := rfl
@[simp] theorem State.applyReset_remain (s : State) : (s.applyReset).remain = State.reset.remain := rfl
@[simp] theorem State.applyReset_snap (s : State) : (s.applyReset).snap = [] := rfl
@[simp] theorem State.applyReset_config (s : State) : (s.applyReset).config = s.config := rfl
@[simp] theorem State.applyReset_port (s : State) : (s.applyReset).port = s.port := rfl
@[simp] theorem State.applyReset_responses (s : State) : (s.applyReset).responses = s.responses := rfl

@[simp] theorem State.reset_phase : State.reset.phase = .empty := rfl
@[simp] theorem State.reset_snap : State.reset.snap = [] := rfl
@[simp] theorem State.reset_config : State.reset.config = Config.unbounded := rfl
@[simp] theorem State.reset_port : State.reset.port = [] := rfl
@[simp] theorem State.reset_responses : State.reset.responses = [] := rfl

@[simp] theorem Config.unbounded_snapCapacity : Config.unbounded.snapCapacity = none := rfl

/-- Taking an event off the port and then looking at the port again is taking the rest. -/
@[simp] theorem State.withPort_withPort (s : State) (p q : List HostEvent) : (s.withPort p).withPort q = s.withPort q := rfl

/-- The port as it is. -/
@[simp] theorem State.withPort_self (s : State) : s.withPort s.port = s := rfl

end Sys2Proof.Machine
end

