-- ==== Sys2Proof/Laws/Ops.lean ====
section
/-!
SUPPORT. What the shared operations can do, said once each.
-/

namespace Sys2Proof.Machine

/-- Giving a response always succeeds, and this is the state after it. -/
@[simp] theorem respond_eq (r : Response) (s : State) : respond r s = .next (s.addResponse r) := rfl

/-- Taking the exception is giving the response `Fault`, and nothing else (rule R190). -/
@[simp] theorem takeFault_eq (s : State) : takeFault s = .next (s.addResponse .fault) := rfl

/-- In the phase asked for, the operation goes on. -/
theorem requirePhase_of_eq {p : Phase} {s : State} (h : s.phase = p) (go : Host.Outcome State Fault Refusal) :
    requirePhase p s go = go := if_pos h

/-- In another phase it is refused. -/
theorem requirePhase_of_ne {p : Phase} {s : State} (h : s.phase ≠ p) (go : Host.Outcome State Fault Refusal) :
    requirePhase p s go = .refused .badPhase := if_neg h

/-- Where an operation that asks for a phase gives a next state, the phase was the one asked for. -/
theorem requirePhase_next {p : Phase} {s t : State} {go : Host.Outcome State Fault Refusal}
    (h : requirePhase p s go = .next t) : s.phase = p ∧ go = .next t := by
  by_cases hp : s.phase = p
  · exact ⟨hp, by rwa [requirePhase_of_eq hp] at h⟩
  · rw [requirePhase_of_ne hp] at h; cases h

/-- Where an operation that asks for a phase is refused, the phase was another, or what follows refuses. -/
theorem requirePhase_refused {p : Phase} {s : State} {go : Host.Outcome State Fault Refusal} {r : Refusal}
    (h : requirePhase p s go = .refused r) :
    (s.phase ≠ p ∧ r = .badPhase) ∨ (s.phase = p ∧ go = .refused r) := by
  by_cases hp : s.phase = p
  · exact .inr ⟨hp, by rwa [requirePhase_of_eq hp] at h⟩
  · rw [requirePhase_of_ne hp] at h; cases h; exact .inl ⟨hp, rfl⟩

/-- The capacity test, as rule R132 writes it. -/
theorem atCapacity_iff (s : State) : atCapacity s = true ↔ s.config.snapCapacity = some (memSize s.snap) := by
  simp [atCapacity]

@[simp] theorem phaseAfter_zero : phaseAfter 0 = .ready := rfl

theorem phaseAfter_of_ne {n : U64} (h : n ≠ 0) : phaseAfter n = .loading := if_neg h

/-- The phase after counting is READY exactly when nothing is left to come, and never EMPTY. -/
theorem phaseAfter_cases (n : U64) : (n = 0 ∧ phaseAfter n = .ready) ∨ (n ≠ 0 ∧ phaseAfter n = .loading) := by
  by_cases h : n = 0
  · subst h; exact .inl ⟨rfl, rfl⟩
  · exact .inr ⟨h, phaseAfter_of_ne h⟩

/-- The port with nothing on it. -/
theorem fetch_of_nil {s : State} (h : s.port = []) : fetch s = .idle := by simp [fetch, h]

/-- The reset event at the head of the port. -/
theorem fetch_of_reset {s : State} {rest : List HostEvent} (h : s.port = .reset :: rest) :
    fetch s = .reset (s.withPort rest) := by simp [fetch, h]

/-- A command word that decodes, at the head of the port. -/
theorem fetch_of_command {s : State} {w : CmdWord} {rest : List HostEvent} {i : Instr}
    (h : s.port = .command w :: rest) (hd : decode w = .ok i) : fetch s = .run i (s.withPort rest) := by
  simp [fetch, h, hd]

/-- A command word with a reserved code, at the head of the port. -/
theorem fetch_of_reserved {s : State} {w : CmdWord} {rest : List HostEvent}
    (h : s.port = .command w :: rest) (hd : decode w = .error .reservedOp) : fetch s = .refused .reservedOp := by
  simp [fetch, h, hd]

/-- Everything a fetch can find, with what stands on the port in each case. -/
theorem fetch_cases (s : State) :
    (s.port = [] ∧ fetch s = .idle) ∨
    (∃ rest, s.port = .reset :: rest ∧ fetch s = .reset (s.withPort rest)) ∨
    (∃ w rest i, s.port = .command w :: rest ∧ decode w = .ok i ∧ fetch s = .run i (s.withPort rest)) ∨
    (∃ w rest, s.port = .command w :: rest ∧ decode w = .error .reservedOp ∧ fetch s = .refused .reservedOp) := by
  rcases h : s.port with _ | ⟨e, rest⟩
  · exact .inl ⟨rfl, fetch_of_nil h⟩
  · cases e with
    | reset => exact .inr (.inl ⟨rest, rfl, fetch_of_reset h⟩)
    | command w =>
      rcases hd : decode w with e | i
      · cases e; exact .inr (.inr (.inr ⟨w, rest, rfl, hd, fetch_of_reserved h hd⟩))
      · exact .inr (.inr (.inl ⟨w, rest, i, rfl, hd, fetch_of_command h hd⟩))

end Sys2Proof.Machine
end

