-- ==== Sys2Proof/Laws/Exec.lean ====
section
/-!
SUPPORT. For each operation, everything it can do: the state when it answers next, and the reasons when it is refused;
and from these what a step can do.
-/

namespace Sys2Proof.Machine

theorem exec_vadec (va b : U64) (s : State) :
    exec (.vadec va b) s = .next (s.addResponse (.vaFields (decomposeVA va))) := rfl

theorem exec_pddec (raw b : U64) (s : State) :
    exec (.pddec raw b) s = .next (s.addResponse (.descriptor (decodeDescriptor raw))) := rfl

theorem exec_lpdet_of_level {level : U64} {k : Level} (h : levelOf level = some k) (raw : U64) (s : State) :
    exec (.lpdet raw level) s = .next (s.addResponse (.largePage (detectLargePage raw k))) := by
  simp [exec, execLpdet, h]

theorem exec_lpdet_badLevel {level : U64} (h : levelOf level = none) (raw : U64) (s : State) :
    exec (.lpdet raw level) s = .refused .badLevel := by
  simp [exec, execLpdet, h]

theorem exec_ctxinit_of_empty {s : State} (h : s.phase = .empty) (root count : U64) :
    exec (.ctxinit root count) s = .next ((s.initContext root count).addResponse .done) :=
  requirePhase_of_eq h _

theorem exec_cellwr_of_room {s : State} (h : s.phase = .loading) {paddr : U64}
    (hc : ¬(memRead s.snap paddr = none ∧ atCapacity s = true)) (raw : U64) :
    exec (.cellwr paddr raw) s = .next ((s.storeCell paddr raw).addResponse .done) :=
  (requirePhase_of_eq h _).trans (if_neg hc)

theorem exec_cellwr_of_full {s : State} (h : s.phase = .loading) {paddr : U64}
    (hc : memRead s.snap paddr = none ∧ atCapacity s = true) (raw : U64) :
    exec (.cellwr paddr raw) s = .refused .capacity :=
  (requirePhase_of_eq h _).trans (if_pos hc)

theorem exec_lookup_of_ready {s : State} (h : s.phase = .ready) (paddr b : U64) :
    exec (.lookup paddr b) s = .next (s.addResponse (.cell (memRead s.snap paddr))) :=
  requirePhase_of_eq h _

/-- What the host is told of a walk's end. -/
def WalkEnd.response : WalkEnd → Response
  | .ok pa => .ok pa
  | .fault _ => .fault

/-- Delivering a walk's end is giving its response. -/
@[simp] theorem WalkEnd.deliver_eq (e : WalkEnd) (s : State) : e.deliver s = .next (s.addResponse e.response) := by
  cases e <;> rfl

theorem exec_xlate_of_ready {s : State} (h : s.phase = .ready) (va b : U64) :
    exec (.xlate va b) s = .next (s.addResponse (walk s.snap s.root va).ending.response) :=
  (requirePhase_of_eq h _).trans (WalkEnd.deliver_eq _ _)

/-- The levels a 64-bit operand can name. -/
theorem levelOf_cases (b : U64) :
    (b.toNat = 1 ∧ levelOf b = some .one) ∨ (b.toNat = 2 ∧ levelOf b = some .two) ∨
    (b.toNat = 3 ∧ levelOf b = some .three) ∨ (b.toNat = 4 ∧ levelOf b = some .four) ∨
    ((b.toNat < 1 ∨ 4 < b.toNat) ∧ levelOf b = none) := by
  unfold levelOf
  split
  · simp_all
  · simp_all
  · simp_all
  · simp_all
  · simp_all; omega

/-- Everything an operation can do when it answers next: three of them write state, all give one response. -/
theorem exec_next_cases {i : Instr} {s t : State} (h : exec i s = .next t) :
    (∃ root count, i = .ctxinit root count ∧ s.phase = .empty ∧
      t = (s.initContext root count).addResponse .done) ∨
    (∃ paddr raw, i = .cellwr paddr raw ∧ s.phase = .loading ∧
      ¬(memRead s.snap paddr = none ∧ atCapacity s = true) ∧ t = (s.storeCell paddr raw).addResponse .done) ∨
    (∃ va b, i = .xlate va b ∧ s.phase = .ready ∧
      t = s.addResponse (walk s.snap s.root va).ending.response) ∨
    (∃ va b, i = .vadec va b ∧ t = s.addResponse (.vaFields (decomposeVA va))) ∨
    (∃ raw b, i = .pddec raw b ∧ t = s.addResponse (.descriptor (decodeDescriptor raw))) ∨
    (∃ raw level k, i = .lpdet raw level ∧ levelOf level = some k ∧
      t = s.addResponse (.largePage (detectLargePage raw k))) ∨
    (∃ paddr b, i = .lookup paddr b ∧ s.phase = .ready ∧ t = s.addResponse (.cell (memRead s.snap paddr))) := by
  cases i with
  | ctxinit root count =>
    obtain ⟨hp, he⟩ := requirePhase_next h
    cases he
    exact .inl ⟨root, count, rfl, hp, rfl⟩
  | cellwr paddr raw =>
    obtain ⟨hp, he⟩ := requirePhase_next h
    split at he
    · cases he
    · next hc => cases he; exact .inr (.inl ⟨paddr, raw, rfl, hp, hc, rfl⟩)
  | xlate va b =>
    obtain ⟨hp, he⟩ := requirePhase_next h
    rw [WalkEnd.deliver_eq] at he
    cases he
    exact .inr (.inr (.inl ⟨va, b, rfl, hp, rfl⟩))
  | vadec va b => cases h; exact .inr (.inr (.inr (.inl ⟨va, b, rfl, rfl⟩)))
  | pddec raw b => cases h; exact .inr (.inr (.inr (.inr (.inl ⟨raw, b, rfl, rfl⟩))))
  | lpdet raw level =>
    rcases hl : levelOf level with _ | k
    · rw [exec_lpdet_badLevel hl] at h; cases h
    · rw [exec_lpdet_of_level hl] at h
      cases h
      exact .inr (.inr (.inr (.inr (.inr (.inl ⟨raw, level, k, rfl, hl, rfl⟩)))))
  | lookup paddr b =>
    obtain ⟨hp, he⟩ := requirePhase_next h
    cases he
    exact .inr (.inr (.inr (.inr (.inr (.inr ⟨paddr, b, rfl, hp, rfl⟩)))))

/-- Everything a step can do when it answers next. -/
theorem step_next_cases {s t : State} (h : step s = .next t) :
    (s.port = [] ∧ t = s) ∨
    (∃ rest, s.port = .reset :: rest ∧ t = (s.withPort rest).applyReset) ∨
    (∃ w rest i, s.port = .command w :: rest ∧ decode w = .ok i ∧ exec i (s.withPort rest) = .next t) := by
  unfold step at h
  rcases fetch_cases s with ⟨hp, hf⟩ | ⟨rest, hp, hf⟩ | ⟨w, rest, i, hp, hd, hf⟩ | ⟨w, rest, hp, hd, hf⟩
  · rw [hf] at h; cases h; exact .inl ⟨hp, rfl⟩
  · rw [hf] at h; cases h; exact .inr (.inl ⟨rest, hp, rfl⟩)
  · rw [hf] at h; exact .inr (.inr ⟨w, rest, i, hp, hd, h⟩)
  · rw [hf] at h; cases h

end Sys2Proof.Machine
end

