-- ==== Sys2Proof/Laws/HostText.lean ====
section
/-!
SUPPORT. The laws of the host's text: a numeral read in two parts, a token split off, and a written number read back.
-/

namespace Sys2Proof.Machine

/-- A numeral read in two parts. -/
theorem decimalFrom_append (l r : List Char) (n : Nat) :
    decimalFrom n (l ++ r) = (decimalFrom n l).bind (fun m => decimalFrom m r) := by
  induction l generalizing n with
  | nil => rfl
  | cons c l ih =>
    simp only [List.cons_append, decimalFrom]
    split
    · exact ih _
    · rfl

/-- The ten digits. -/
theorem digitChar_reads : ∀ d < 10, (Nat.digitChar d).isDigit = true ∧ (Nat.digitChar d).toNat - '0'.toNat = d := by
  decide

/-- The decimal numeral of a number reads as the number. -/
theorem decimalFrom_toDigits (n : Nat) : decimalFrom 0 (Nat.toDigits 10 n) = some n := by
  induction n using Nat.strongRecOn with
  | _ n ih =>
    rw [Nat.toDigits_eq_if (by decide)]
    split
    · next h =>
      obtain ⟨h₁, h₂⟩ := digitChar_reads n h
      simpa [decimalFrom, h₁] using h₂
    · next h =>
      obtain ⟨h₁, h₂⟩ := digitChar_reads (n % 10) (by omega)
      rw [decimalFrom_append, ih (n / 10) (by omega)]
      simp only [Option.bind_some, decimalFrom, h₁, if_true, h₂]
      congr 1
      omega

/-- A written number reads back. -/
@[simp] theorem readNumber_decimalToken (n : U64) : readNumber (decimalToken n) = some n := by
  have h := decimalFrom_toDigits n.toNat
  unfold decimalToken
  cases hd : Nat.toDigits 10 n.toNat with
  | nil => exact absurd hd Nat.toDigits_ne_nil
  | cons c r =>
    rw [hd] at h
    simp only [readNumber, h, if_pos n.isLt, BitVec.ofNat_toNat, BitVec.setWidth_eq]

/-- A digit is not white space. -/
theorem isWhitespace_of_isDigit {c : Char} (h : c.isDigit = true) : c.isWhitespace = false := by
  simp [Char.isDigit, Char.isWhitespace, UInt32.le_iff_toNat_le, ← Char.val_inj, ← UInt32.toNat_inj] at *
  omega

/-- Characters up to the next white space are one token, with what had been read of it. -/
theorem splitTokens_append {token word rest : List Char} {c : Char} (h : ∀ x ∈ token, x.isWhitespace = false)
    (hc : c.isWhitespace = true) (hw : word ≠ [] ∨ token ≠ []) :
    splitTokens word (token ++ c :: rest) = (word.reverse ++ token) :: splitTokens [] rest := by
  induction token generalizing word with
  | nil =>
    have hw : word ≠ [] := by simpa using hw
    simp [splitTokens, hc, hw]
  | cons x token ih =>
    simp only [List.cons_append, splitTokens, h x List.mem_cons_self, Bool.false_eq_true, if_false]
    rw [ih (fun y hy => h y (List.mem_cons_of_mem _ hy)) (.inl (by simp))]
    simp

/-- A written number before white space is one token. -/
theorem splitTokens_decimalToken (n : U64) {c : Char} (hc : c.isWhitespace = true) (rest : List Char) :
    splitTokens [] (decimalToken n ++ c :: rest) = decimalToken n :: splitTokens [] rest :=
  splitTokens_append (word := [])
    (fun _ hx => isWhitespace_of_isDigit (Nat.isDigit_of_mem_toDigits (by decide) (by decide) hx)) hc
    (.inr Nat.toDigits_ne_nil)

end Sys2Proof.Machine
end

