-- ==== Sys2Proof/Laws/Memory.lean ====
section
/-!
SUPPORT. The laws of the snapshot: a read after a write, the canonical form and that a write keeps it, and the size.
-/

namespace Sys2Proof.Machine

@[simp] theorem cellAt_nil (k : Nat) : cellAt k [] = none := rfl

/-- Reading the key just written gives the value written. -/
theorem cellAt_insertCell_self (k : Nat) (v : U64) (m : Memory) : cellAt k (insertCell k v m) = some v := by
  induction m with
  | nil => simp [insertCell, cellAt]
  | cons c rest ih =>
    obtain ⟨j, w⟩ := c
    unfold insertCell
    split
    · simp [cellAt]
    · split
      · simp [cellAt]
      · next _ h => simpa [cellAt, Ne.symm h] using ih

/-- Writing one key leaves every other key as it was. -/
theorem cellAt_insertCell_other {k l : Nat} (h : l ≠ k) (v : U64) (m : Memory) :
    cellAt l (insertCell k v m) = cellAt l m := by
  induction m with
  | nil => simp [insertCell, cellAt, Ne.symm h]
  | cons c rest ih =>
    obtain ⟨j, w⟩ := c
    unfold insertCell
    split
    · simp [cellAt, Ne.symm h]
    · split
      · next _ hj => subst hj; simp [cellAt, Ne.symm h]
      · simp only [cellAt, ih]

/-- An address just written reads as what was written. -/
@[simp] theorem memRead_memWrite_self (m : Memory) (a v : U64) : memRead (memWrite m a v) a = some v :=
  cellAt_insertCell_self _ _ _

/-- A write leaves every other address alone. -/
theorem memRead_memWrite_other {a b : U64} (h : b ≠ a) (m : Memory) (v : U64) :
    memRead (memWrite m a v) b = memRead m b :=
  cellAt_insertCell_other (fun e => h (BitVec.eq_of_toNat_eq e)) v m

/-- What a read gives after a write, in one equation. -/
theorem memRead_memWrite (m : Memory) (a b v : U64) :
    memRead (memWrite m a v) b = if b = a then some v else memRead m b := by
  split
  · next h => subst h; simp
  · next h => exact memRead_memWrite_other h m v

/-- Every address of an empty snapshot is absent. -/
@[simp] theorem memRead_nil (a : U64) : memRead [] a = none := rfl

/-! ## The canonical form -/

@[simp] theorem Memory.risingFrom_nil (lo : Nat) : Memory.risingFrom lo [] = true := rfl

theorem Memory.risingFrom_cons (lo k : Nat) (v : U64) (rest : Memory) :
    Memory.risingFrom lo ((k, v) :: rest) = true ↔ lo ≤ k ∧ k < 2 ^ 64 ∧ Memory.risingFrom (k + 1) rest = true := by
  simp [Memory.risingFrom, and_assoc]

theorem Memory.risingFrom_mono {lo lo' : Nat} (h : lo ≤ lo') {m : Memory} (hm : Memory.risingFrom lo' m = true) :
    Memory.risingFrom lo m = true := by
  cases m with
  | nil => rfl
  | cons c rest =>
    obtain ⟨k, v⟩ := c
    rw [Memory.risingFrom_cons] at hm ⊢
    exact ⟨h.trans hm.1, hm.2⟩

/-- A key below the bound is absent. -/
theorem cellAt_below {lo k : Nat} (h : k < lo) {m : Memory} (hm : Memory.risingFrom lo m = true) : cellAt k m = none := by
  induction m generalizing lo with
  | nil => rfl
  | cons c rest ih =>
    obtain ⟨j, v⟩ := c
    rw [Memory.risingFrom_cons] at hm
    have hj : j ≠ k := by omega
    simp only [cellAt, if_neg hj]
    exact ih (by omega) hm.2.2

/-- A key of 64 bits put into a rising list leaves it rising. -/
theorem Memory.risingFrom_insertCell {lo k : Nat} (hk : lo ≤ k) (hk' : k < 2 ^ 64) (v : U64) {m : Memory}
    (hm : Memory.risingFrom lo m = true) : Memory.risingFrom lo (insertCell k v m) = true := by
  induction m generalizing lo with
  | nil => rw [insertCell, Memory.risingFrom_cons]; exact ⟨hk, hk', rfl⟩
  | cons c rest ih =>
    obtain ⟨j, w⟩ := c
    have hm' := hm
    rw [Memory.risingFrom_cons] at hm'
    unfold insertCell
    split
    · next h =>
      rw [Memory.risingFrom_cons, Memory.risingFrom_cons]
      exact ⟨hk, hk', h, hm'.2⟩
    · split
      · next _ h => subst h; rw [Memory.risingFrom_cons]; exact hm'
      · next h₁ h₂ =>
        rw [Memory.risingFrom_cons]
        exact ⟨hm'.1, hm'.2.1, ih (by omega) hm'.2.2⟩

/-- The one memory operation that writes keeps the canonical form. -/
theorem memWrite_wf {m : Memory} (hm : m.wf = true) (a v : U64) : (memWrite m a v).wf = true :=
  Memory.risingFrom_insertCell (Nat.zero_le _) a.isLt v hm

/-- The snapshot after reset is in canonical form. -/
theorem reset_snap_wf : State.reset.snap.wf = true := rfl

/-- A write to a key that is present keeps the number of keys, a write to a new key adds one. -/
theorem length_insertCell {lo k : Nat} (v : U64) {m : Memory} (hm : Memory.risingFrom lo m = true) :
    (insertCell k v m).length = m.length + (if cellAt k m = none then 1 else 0) := by
  induction m generalizing lo with
  | nil => simp [insertCell]
  | cons c rest ih =>
    obtain ⟨j, w⟩ := c
    rw [Memory.risingFrom_cons] at hm
    unfold insertCell
    split
    · next h =>
      have hj : j ≠ k := by omega
      have hn : cellAt k rest = none := cellAt_below (by omega) hm.2.2
      simp [cellAt, hj, hn]
    · split
      · next _ h => simp [cellAt, h]
      · next _ h =>
        have hj : j ≠ k := Ne.symm h
        simp only [cellAt, if_neg hj, List.length_cons, ih hm.2.2]
        omega

/-- The size of the snapshot after a write (rule R132's test is about this size). -/
theorem memSize_memWrite {m : Memory} (hm : m.wf = true) (a v : U64) :
    memSize (memWrite m a v) = memSize m + (if memRead m a = none then 1 else 0) :=
  length_insertCell v hm

end Sys2Proof.Machine
end

