-- ==== Sys2Proof/Laws/PerInstr.lean ====
section
/-!
SUPPORT. Families of laws, one lemma per constructor of `Instr`.
-/

namespace Sys2Proof.Laws.MatchesTable

/-- The column `match` of the operation's row in spec/opcode_table.json. -/
def tableMatch : Instr → CmdWord
  | .ctxinit _ _ => 0x100000000000000000000000000000000#132
  | .cellwr _ _ => 0x200000000000000000000000000000000#132
  | .xlate _ _ => 0x300000000000000000000000000000000#132
  | .vadec _ _ => 0x400000000000000000000000000000000#132
  | .pddec _ _ => 0x500000000000000000000000000000000#132
  | .lpdet _ _ => 0x600000000000000000000000000000000#132
  | .lookup _ _ => 0x700000000000000000000000000000000#132

/-- The column `mask`, the same in every row. -/
def tableMask : CmdWord := 0xf00000000000000000000000000000000#132

/-- An operation's word, under its row's mask, is its row's match. -/
def Statement (i : Instr) : Prop := encode i &&& tableMask = tableMatch i

/-- A word's operation code is what the table's mask leaves of it. -/
theorem commandWord_and_mask (op : BitVec 4) (a b : U64) : commandWord op a b &&& tableMask = commandWord op 0 0 := by
  have hm : tableMask = commandWord 0xF#4 0 0 := by decide
  rw [hm]
  apply BitVec.eq_of_getLsbD_eq
  intro i hi
  have h15 : (0xF#4).getLsbD (i - 64 - 64) = decide (i - 64 - 64 < 4) := by
    have : (0xF#4) = BitVec.allOnes 4 := by decide
    rw [this, BitVec.getLsbD_allOnes]
  simp only [commandWord, BitVec.getLsbD_and, BitVec.getLsbD_append, h15]
  by_cases h1 : i < 64
  · simp [h1]
  · by_cases h2 : i - 64 < 64
    · simp [h1, h2]
    · have h3 : i - 64 - 64 < 4 := by omega
      simp [h1, h2, h3]

theorem ctxinit (root count : U64) : Statement (.ctxinit root count) := commandWord_and_mask _ _ _
theorem cellwr (paddr raw : U64) : Statement (.cellwr paddr raw) := commandWord_and_mask _ _ _
theorem xlate (va b : U64) : Statement (.xlate va b) := commandWord_and_mask _ _ _
theorem vadec (va b : U64) : Statement (.vadec va b) := commandWord_and_mask _ _ _
theorem pddec (raw b : U64) : Statement (.pddec raw b) := commandWord_and_mask _ _ _
theorem lpdet (raw level : U64) : Statement (.lpdet raw level) := commandWord_and_mask _ _ _
theorem lookup (paddr b : U64) : Statement (.lookup paddr b) := commandWord_and_mask _ _ _

end Sys2Proof.Laws.MatchesTable
end

