-- ==== Sys2Proof/Laws/Run.lean ====
section
/-!
SUPPORT. The laws of a run: how it begins, how one step joins on, and how two runs join.
-/

namespace Sys2Proof.Machine

@[simp] theorem run_zero (s : State) : run 0 s = .next s := rfl

/-- As the two lemmas below, of any machine. -/
theorem core_run_succ_of_next {M : Host.Core} {k : Nat} {s t : M.State} (h : M.step s = .next t) :
    M.run (k + 1) s = M.run k t := by
  rw [Host.Core.run, h]

theorem core_run_succ_of_refused {M : Host.Core} {k : Nat} {s : M.State} {r : M.Refusal} (h : M.step s = .refused r) :
    M.run (k + 1) s = .refused r := by
  rw [Host.Core.run, h]

/-- A run whose first step answers next goes on from there. -/
theorem run_succ_of_next {k : Nat} {s t : State} (h : step s = .next t) : run (k + 1) s = run k t :=
  core_run_succ_of_next (M := Sys2Proof.core) h

/-- A run whose first step is refused is refused. -/
theorem run_succ_of_refused {k : Nat} {s : State} {r : Refusal} (h : step s = .refused r) :
    run (k + 1) s = .refused r :=
  core_run_succ_of_refused (M := Sys2Proof.core) h

/-- When a run of one more step answers next. -/
theorem run_succ_next {k : Nat} {s t : State} :
    run (k + 1) s = .next t ↔ ∃ u, step s = .next u ∧ run k u = .next t := by
  cases h : step s with
  | next u => simp [run_succ_of_next h]
  | fault f => cases f
  | refused r => simp [run_succ_of_refused h]

/-- When two runs, one after the other, answer next. -/
theorem run_add_next {j k : Nat} {s t : State} :
    run (j + k) s = .next t ↔ ∃ u, run j s = .next u ∧ run k u = .next t := by
  induction j generalizing s with
  | zero => simp
  | succ j ih =>
    rw [Nat.succ_add, run_succ_next]
    simp only [run_succ_next, ih]
    constructor
    · rintro ⟨u, h, v, h₁, h₂⟩; exact ⟨v, ⟨u, h, h₁⟩, h₂⟩
    · rintro ⟨v, ⟨u, h, h₁⟩, h₂⟩; exact ⟨u, h, v, h₁, h₂⟩

end Sys2Proof.Machine
end

