-- ==== Sys2Proof/Laws/Walker.lean ====
section
/-!
SUPPORT. What one level of the walk can do, and each operand form as the shift and mask the spec also gives it as.
-/

namespace Sys2Proof.Machine

@[simp] theorem endWalk_reads (e : WalkEnd) : (endWalk e).reads = [] := rfl
@[simp] theorem endWalk_ending (e : WalkEnd) : (endWalk e).ending = e := rfl
@[simp] theorem terminal_reads (va d : U64) (k : Level) : (terminal va d k).reads = [] := rfl
@[simp] theorem terminal_ending (va d : U64) (k : Level) :
    (terminal va d k).ending = .ok (pageAddress d va (detectLargePage d k).shift.toNat) := rfl

/-- The presence test (rule R114): its three answers. -/
theorem usable_none : usable none = .error .absent := rfl

theorem usable_notPresent {d : U64} (h : presentBit d = false) : usable (some d) = .error .notPresent := by
  simp [usable, h]

theorem usable_present {d : U64} (h : presentBit d = true) : usable (some d) = .ok d := by
  simp [usable, h]

/-- The first lookup of a level is at the address its index selects, whatever comes of it. -/
theorem visitLevel_reads_cons (m : Memory) (f : VAFields) (k : Level) (base : U64) (go : U64 → Walk) :
    ∃ rest, (visitLevel m f k base go).reads = entryAddress base (levelIndex f k) :: rest := ⟨_, rfl⟩

/-- A level whose entry is absent (rule R181). -/
theorem visitLevel_absent {m : Memory} {f : VAFields} {k : Level} {base : U64} (go : U64 → Walk)
    (h : memRead m (entryAddress base (levelIndex f k)) = none) :
    visitLevel m f k base go =
      { reads := [entryAddress base (levelIndex f k)], ending := .fault { level := k, why := .absent } } := by
  simp [visitLevel, h, usable_none, endWalk]

/-- A level whose entry is there and not present (rule R181); nothing else of it matters. -/
theorem visitLevel_notPresent {m : Memory} {f : VAFields} {k : Level} {base d : U64} (go : U64 → Walk)
    (h : memRead m (entryAddress base (levelIndex f k)) = some d) (hp : presentBit d = false) :
    visitLevel m f k base go =
      { reads := [entryAddress base (levelIndex f k)], ending := .fault { level := k, why := .notPresent } } := by
  simp [visitLevel, h, usable_notPresent hp, endWalk]

/-- A level whose entry is usable: what follows decides. -/
theorem visitLevel_present {m : Memory} {f : VAFields} {k : Level} {base d : U64} (go : U64 → Walk)
    (h : memRead m (entryAddress base (levelIndex f k)) = some d) (hp : presentBit d = true) :
    visitLevel m f k base go =
      { reads := entryAddress base (levelIndex f k) :: (go d).reads, ending := (go d).ending } := by
  simp [visitLevel, h, usable_present hp]

/-- Everything one level can do. -/
theorem visitLevel_cases (m : Memory) (f : VAFields) (k : Level) (base : U64) (go : U64 → Walk) :
    (memRead m (entryAddress base (levelIndex f k)) = none ∧
      visitLevel m f k base go =
        { reads := [entryAddress base (levelIndex f k)], ending := .fault { level := k, why := .absent } }) ∨
    (∃ d, memRead m (entryAddress base (levelIndex f k)) = some d ∧ presentBit d = false ∧
      visitLevel m f k base go =
        { reads := [entryAddress base (levelIndex f k)], ending := .fault { level := k, why := .notPresent } }) ∨
    (∃ d, memRead m (entryAddress base (levelIndex f k)) = some d ∧ presentBit d = true ∧
      visitLevel m f k base go =
        { reads := entryAddress base (levelIndex f k) :: (go d).reads, ending := (go d).ending }) := by
  rcases h : memRead m (entryAddress base (levelIndex f k)) with _ | d
  · exact .inl ⟨rfl, visitLevel_absent go h⟩
  · cases hp : presentBit d
    · exact .inr (.inl ⟨d, rfl, hp, visitLevel_notPresent go h hp⟩)
    · exact .inr (.inr ⟨d, rfl, hp, visitLevel_present go h hp⟩)

/-- The detector's verdict at each level (rule R121). -/
@[simp] theorem detectLargePage_one (d : U64) : detectLargePage d .one = { large := false, shift := 12 } := rfl
@[simp] theorem detectLargePage_four (d : U64) : detectLargePage d .four = { large := false, shift := 12 } := rfl

theorem detectLargePage_two_large {d : U64} (h : largePageBit d = true) :
    detectLargePage d .two = { large := true, shift := 30 } := by simp [detectLargePage, h]

theorem detectLargePage_two_small {d : U64} (h : largePageBit d = false) :
    detectLargePage d .two = { large := false, shift := 12 } := by simp [detectLargePage, h]

theorem detectLargePage_three_large {d : U64} (h : largePageBit d = true) :
    detectLargePage d .three = { large := true, shift := 21 } := by simp [detectLargePage, h]

theorem detectLargePage_three_small {d : U64} (h : largePageBit d = false) :
    detectLargePage d .three = { large := false, shift := 12 } := by simp [detectLargePage, h]

/-- The presence test in natural numbers. -/
theorem presentBit_eq (d : U64) : presentBit d = decide (d.toNat % 2 = 1) := by
  simp [presentBit, BitVec.getLsbD, Nat.testBit_zero]

/-- A table base in natural numbers (rule R112): the frame times 4096. -/
theorem tableBase_toNat (raw : U64) : (tableBase raw).toNat = raw.toNat / 2 ^ 12 % 2 ^ 40 * 2 ^ 12 := by
  simp [tableBase, BitVec.toNat_shiftLeft, BitVec.extractLsb'_toNat, Nat.shiftRight_eq_div_pow, Nat.shiftLeft_eq]
  omega

/-- A scaled index in natural numbers (rule R77). -/
theorem scaledIndex_toNat (ix : BitVec 9) : (scaledIndex ix).toNat = ix.toNat * 8 := by
  have := ix.isLt
  simp [scaledIndex]
  omega

/-- An offset in natural numbers (rule R103). -/
theorem pageOffset_toNat (va : U64) {shift : Nat} (h : shift ≤ 64) :
    (pageOffset va shift).toNat = va.toNat % 2 ^ shift := by
  have h1 : va.toNat % 2 ^ shift < 2 ^ 64 :=
    lt_of_lt_of_le (Nat.mod_lt _ (Nat.two_pow_pos _)) (Nat.pow_le_pow_right (by decide) h)
  simp only [pageOffset, BitVec.toNat_setWidth, BitVec.extractLsb'_toNat, Nat.shiftRight_zero]
  exact Nat.mod_eq_of_lt h1

end Sys2Proof.Machine
end

