-- ==== Sys2Proof/Tests/Slice0.lean ====
section
/-!
SUPPORT. Tests. Their expected values are those of 95_test_vectors.md (named by table and row) or are worked out by hand
from the rule named. A theorem `witness_<Name>` shows values that meet the hypotheses of `Obligations.<Name>`, for each of
its clauses; it proves nothing of the statement.
-/

namespace Sys2Proof.Tests

open Sys2Proof Sys2Proof.Machine

/-! ## Helpers -/

/-- A snapshot loaded from cells in the order given. -/
def load (cells : List (U64 × U64)) : Memory := cells.foldl (fun m c => memWrite m c.1 c.2) []

/-- A state in `phase` with the root, the count of cells to come and the cells given. -/
def stateIn (phase : Phase) (root remain : U64) (cells : List (U64 × U64)) : State :=
  { State.reset with phase := phase, root := root, remain := remain, snap := load cells }

/-- A state in READY. -/
def ready (root : U64) (cells : List (U64 × U64)) : State := stateIn .ready root 0 cells

/-- `s` with only the operation `i` on its port. -/
def offer (i : Instr) (s : State) : State := { s with port := [.command (encode i)] }

/-- `s` with the capacity `c`. -/
def capped (c : Nat) (s : State) : State := { s with config := { snapCapacity := some c } }

/-- The next state, if there is one. -/
def nextOf : Host.Outcome State Fault Refusal → Option State
  | .next s => some s
  | .fault _ => none
  | .refused _ => none

/-- The reason of a refusal, if there is one. -/
def refusalOf : Host.Outcome State Fault Refusal → Option Refusal
  | .next _ => none
  | .fault _ => none
  | .refused r => some r

/-- The newest response, if there is a next state and it has one. -/
def answer (o : Host.Outcome State Fault Refusal) : Option Response := (nextOf o).bind (fun s => s.responses.getLast?)

/-- The four cells of scenario S2. -/
def scenarioCells : List (U64 × U64) := [(0x1000, 0x2001), (0x2000, 0x3001), (0x3000, 0x4001), (0x4000, 0x5001)]

/-- The base context B of table V5. -/
def base : State := ready 0x1000 scenarioCells

/-! ## Well-formedness (rules R120 and R205): the one check, on both sides of its range -/

theorem test_level_zero_ill_formed : wellFormed (.lpdet 0x10081 0) = false := by decide
theorem test_level_five_ill_formed : wellFormed (.lpdet 0x10081 5) = false := by decide
theorem test_level_one_and_four_well_formed :
    wellFormed (.lpdet 0x10081 1) = true ∧ wellFormed (.lpdet 0x10081 4) = true := by decide

/-! ## Decoding: one word of every operation, from rule R71's format and the words of 95_test_vectors.md -/

theorem test_decode_ctxinit : decode 0x1FFFFFFFFFFFFFFF80000000000000009#132 = .ok (.ctxinit 0xFFFFFFFFFFFFFFF8 9) := by
  decide
theorem test_decode_cellwr : decode 0x20000000000009000000000000000A001#132 = .ok (.cellwr 0x9000 0xA001) := by decide
theorem test_decode_xlate : decode 0x3FFFF0000000001230000000000000000#132 = .ok (.xlate 0xFFFF000000000123 0) := by
  decide

/-- Written out bit by bit: `op` 0100, then 64 bits of `a`, then 64 bits of `b` with its highest and lowest bit set. -/
theorem test_decode_vadec :
    decode (0b0100#4 ++ 0b1000000000000000000000000000000000000000000000000000000000000001#64 ++
      0b1000000000000000000000000000000000000000000000000000000000000001#64) =
      .ok (.vadec 0x8000000000000001 0x8000000000000001) := by decide
theorem test_decode_pddec : decode 0x500000000000050670000000000000000#132 = .ok (.pddec 0x5067 0) := by decide
theorem test_decode_lpdet : decode 0x60000000000010081FFFFFFFFFFFFFFFF#132 = .ok (.lpdet 0x10081 0xFFFFFFFFFFFFFFFF) := by
  decide
theorem test_decode_lookup : decode 0x700010000000010000000000000000000#132 = .ok (.lookup 0x0001000000001000 0) := by
  decide

/-- Rule R73: the codes on both sides of the seven. -/
theorem test_decode_reserved :
    decode 0x000000000000010000000000000000004#132 = .error .reservedOp ∧
    decode 0x800000000000010000000000000000004#132 = .error .reservedOp ∧
    decode 0xF00000000000010000000000000000004#132 = .error .reservedOp := by decide

/-- The encoder writes the words of program P4. -/
theorem test_encode_p4 :
    encode (.ctxinit 0x1004 3) = 0x100000000000010040000000000000003#132 ∧
    encode (.cellwr 0x1008 0x10081) = 0x200000000000010080000000000010081#132 ∧
    encode (.xlate 0x7FFFFFFF 0) = 0x3000000007FFFFFFF0000000000000000#132 := by decide

/-- A number with a bit above 131 is no command word; the table's 132 bits are 136 in whole bytes. -/
theorem test_table_word :
    decodeTableWord 136 0x700000000000010000000000000000000 = some (.lookup 0x1000 0) ∧
    decodeTableWord 136 0x1700000000000010000000000000000000 = none := by decide

/-! ## One step of each operation -/

/-- V1, row 8. -/
theorem test_vadec :
    answer (step (offer (.vadec 0x0000123456789ABC 0) State.reset)) =
      some (.vaFields { rsvd := 0, ix1 := 0x024, ix2 := 0x0D1, ix3 := 0x0B3, ix4 := 0x189, offset := 0xABC }) := by decide

/-- V1, row 11: bits 63:48 alone. -/
theorem test_vadec_reserved_bits :
    answer (step (offer (.vadec 0xFFFF000000000000 0) State.reset)) =
      some (.vaFields { rsvd := 0xFFFF, ix1 := 0, ix2 := 0, ix3 := 0, ix4 := 0, offset := 0 }) := by decide

/-- V2, row 5. -/
theorem test_pddec :
    answer (step (offer (.pddec 0x5067 0) State.reset)) =
      some (.descriptor
        { present := true, writable := true, userAccessible := true, rsvd_6_3 := 0xC, largePage := false,
          rsvd_11_8 := 0, physicalFrame := 5, rsvd_62_52 := 0, executeDisabled := false }) := by decide

/-- V2, row 9. -/
theorem test_pddec_all_but_frame :
    answer (step (offer (.pddec 0xFFF0000000000F7E 0) State.reset)) =
      some (.descriptor
        { present := false, writable := true, userAccessible := true, rsvd_6_3 := 0xF, largePage := false,
          rsvd_11_8 := 0xF, physicalFrame := 0, rsvd_62_52 := 0x7FF, executeDisabled := true }) := by decide

/-- V3, row 6: not present, bit 7 set. -/
theorem test_lpdet_ignores_presence :
    answer (step (offer (.lpdet 0x80 2) State.reset)) = some (.largePage { large := true, shift := 30 }) := by decide

/-- V3, the last row. -/
theorem test_lpdet_bad_level :
    refusalOf (step (offer (.lpdet 0x10081 0xFFFFFFFFFFFFFFFF) State.reset)) = some .badLevel := by decide

/-- V4, step 1. -/
theorem test_ctxinit :
    (nextOf (step (offer (.ctxinit 0x1000 3) State.reset))).map (fun t => (t.phase, t.remain, t.root, t.snap)) =
      some (.loading, 3, 0x1000, []) := by decide

/-- V4, below the table: a count of 0 is READY at once. -/
theorem test_ctxinit_zero :
    (nextOf (step (offer (.ctxinit 0x1000 0) State.reset))).map (fun t => t.phase) = some .ready := by decide

/-- V4, step 3: the last write wins and the not-present cell is kept. -/
theorem test_cellwr_duplicate :
    (nextOf (step (offer (.cellwr 0x1000 0x0) (stateIn .loading 0x1000 2 [(0x1000, 0x2001)])))).map
      (fun t => (t.phase, t.remain, t.snap)) = some (.loading, 1, [(0x1000, 0x0)]) := by decide

/-- V4, step 4: a misaligned key; the count ends. -/
theorem test_cellwr_misaligned :
    (nextOf (step (offer (.cellwr 0x1001 0x7) (stateIn .loading 0x1000 1 [(0x1000, 0x0)])))).map
      (fun t => (t.phase, t.remain, t.snap)) = some (.ready, 0, [(0x1000, 0x0), (0x1001, 0x7)]) := by decide

/-- V4, step 5: a cell of value 0 is there. -/
theorem test_lookup_zero_cell :
    answer (step (offer (.lookup 0x1000 0) (ready 0x1000 [(0x1000, 0x0), (0x1001, 0x7)]))) = some (.cell (some 0)) := by
  decide

/-- V4, step 8: all 64 bits of the key count. -/
theorem test_lookup_all_key_bits :
    answer (step (offer (.lookup 0x0001000000001000 0) (ready 0x1000 [(0x1000, 0x0), (0x1001, 0x7)]))) =
      some (.cell none) := by decide

/-- P4, query 3: a large-page frame that is not aligned; a carry, no bitwise or and no mask. -/
theorem test_xlate_unaligned_large_page :
    answer (step (offer (.xlate 0x7FFFFFFF 0) (ready 0x1004 [(0x1004, 0x1001), (0x1000, 0x1001), (0x1008, 0x10081)]))) =
      some (.ok 0x4000FFFF) := by decide

/-- P3, query 4: the level-1 address wraps to 0x0, bits 63:48 of the address and the ignored bits of descriptors do not
matter. -/
theorem test_xlate_wraps :
    answer (step (offer (.xlate 0xABCD008000000FFF 0)
      (ready 0xFFFFFFFFFFFFFFF8
        [(0x0, 0xFFF0000000007FFF), (0x7000, 0x8001), (0x8000, 0x9001), (0x9000, 0xA001)]))) = some (.ok 0xAFFF) := by
  decide

/-! ## The walk: lookups and results -/

/-- V5, row 1. -/
theorem test_walk_four_levels :
    walk base.snap base.root 0x0 = { reads := [0x1000, 0x2000, 0x3000, 0x4000], ending := .ok 0x5000 } := by decide

/-- V5, rows 3 and 6. -/
theorem test_walk_absent :
    walk base.snap base.root 0x1000 =
      { reads := [0x1000, 0x2000, 0x3000, 0x4008], ending := .fault { level := .four, why := .absent } } ∧
    walk base.snap base.root 0x8000000000 =
      { reads := [0x1008], ending := .fault { level := .one, why := .absent } } := by decide

/-- V5, row 11: presence is tested before bit 7. -/
theorem test_walk_presence_first :
    walk (load (scenarioCells ++ [(0x2000, 0x10080)])) 0x1000 0x0 =
      { reads := [0x1000, 0x2000], ending := .fault { level := .two, why := .notPresent } } := by decide

/-- V5, rows 12 and 13: bit 7 is ignored at levels 1 and 4. -/
theorem test_walk_bit_seven :
    (walk (load (scenarioCells ++ [(0x1000, 0x2081)])) 0x1000 0x0).ending = .ok 0x5000 ∧
    (walk (load (scenarioCells ++ [(0x4000, 0x5081)])) 0x1000 0x7).ending = .ok 0x5007 := by decide

/-- V5, rows 17 and 18: a 2 MB page, and the largest result of all. -/
theorem test_walk_large :
    walk (load [(0x1000, 0x2001), (0x2000, 0x3001), (0x3000, 0xA00081)]) 0x1000 0x12345 =
      { reads := [0x1000, 0x2000, 0x3000], ending := .ok 0xA12345 } ∧
    walk (load [(0x1000, 0x000FFFFFFFFFF001), (0x000FFFFFFFFFFFF8, 0x000FFFFFFFFFF081)]) 0x1000 0x7FFFFFFFFF =
      { reads := [0x1000, 0x000FFFFFFFFFFFF8], ending := .ok 0x001000003FFFEFFF } := by decide

/-! ## Refusals, reset, text -/

/-- V4: out of phase, and a reserved code. -/
theorem test_refusals :
    refusalOf (step (offer (.xlate 0 0) State.reset)) = some .badPhase ∧
    refusalOf (step (offer (.ctxinit 0 0) base)) = some .badPhase ∧
    refusalOf (step (offer (.lookup 0x1000 0) (stateIn .loading 0x1000 2 [(0x1000, 0x2001)]))) = some .badPhase ∧
    refusalOf (step { base with port := [.command 0x900000000000000000000000000000000#132] }) = some .reservedOp := by
  decide

/-- Rule R200: the reset event leaves READY. -/
theorem test_reset_event :
    (nextOf (step { base with port := [.reset] })).map (fun t => (t.phase, t.snap)) = some (.empty, []) := by decide

/-- The text of program P4 is read as its dataset. -/
theorem test_read_dataset :
    readDataset "3 7 4100\n4100 4097\n4096 4097\n4104 65665\n0\n1073741825\n2147483647\n2097152\n4194303\n4096\n549755813888\n".toList =
      some
        { root := 0x1004
          cells := [(0x1004, 0x1001), (0x1000, 0x1001), (0x1008, 0x10081)]
          queries := [0, 0x40000001, 0x7FFFFFFF, 0x200000, 0x3FFFFF, 0x1000, 0x8000000000] } := by decide

/-- The text written for a dataset is laid out as rule R84 shows. -/
theorem test_dataset_text :
    Dataset.text { root := 4100, cells := [(4100, 4097)], queries := [0, 4096] } = "1 2 4100\n4100 4097\n0\n4096\n".toList := by
  decide

/-- Rule R85: 2^64, a sign, a hexadecimal numeral and a missing token are malformed. -/
theorem test_read_malformed :
    readDataset "0 0 18446744073709551616".toList = none ∧ readDataset "0 0 -1".toList = none ∧
    readDataset "0 0 0x10".toList = none ∧ readDataset "1 0 4096 4096".toList = none := by decide

/-- Two lines of program P1's listing. -/
theorem test_listing :
    listingLine (.cellwr 0x1000 0x2001) = "CELLWR 0x1000, 0x2001" ∧ listingLine (.xlate 0xABC 7) = "XLATE 0xABC" := by
  decide

/-- P1, lines 1 and 4 of the output. -/
theorem test_output_lines : outputLines [.ok 0x5000, .fault] = ["20480", "fault"] := by decide

/-! ## Witnesses for the statements on the port and the operations -/

theorem witness_ResetEventBeginsNewRun : ({ base with port := [.reset] } : State).port = .reset :: [] := rfl

theorem witness_EmptyPortLeavesStateUnchanged : base.port = [] := rfl

theorem witness_StepRunsDecodedCommand :
    (offer (.vadec 1 2) base).port = .command (encode (.vadec 1 2)) :: [] ∧
    decode (encode (.vadec 1 2)) = .ok (.vadec 1 2) := by decide

theorem witness_PlacedWordRunsNext : 132 ≤ 132 ∧ 132 ≤ 136 := by decide

theorem witness_OperationsIgnorePortAndTranscript :
    (nextOf (exec (.lookup 0x1000 0) base)).isSome = true ∧
    refusalOf (exec (.lookup 0x1000 0) State.reset) = some .badPhase := by decide

theorem witness_LpdetRespondsByLevelAndBitSeven :
    ((0 : U64).toNat < 1 ∨ 4 < (0 : U64).toNat) ∧ ((5 : U64).toNat < 1 ∨ 4 < (5 : U64).toNat) ∧
    (1 ≤ (1 : U64).toNat ∧ (1 : U64).toNat ≤ 4) ∧ (1 ≤ (4 : U64).toNat ∧ (4 : U64).toNat ≤ 4) := by decide

theorem witness_CtxinitCreatesContext :
    State.reset.phase = .empty ∧ (stateIn .loading 0x1000 1 []).phase ≠ .empty ∧ base.phase ≠ .empty := by decide

/-- With room for a new key, full and the key there, full and the key new, and out of phase. -/
theorem witness_CellwrStoresOneCell :
    ((capped 1 (stateIn .loading 0 2 [])).phase = .loading ∧
      ¬(memRead (capped 1 (stateIn .loading 0 2 [])).snap 0x1000 = none ∧
        (capped 1 (stateIn .loading 0 2 [])).config.snapCapacity =
          some (memSize (capped 1 (stateIn .loading 0 2 [])).snap))) ∧
    ((capped 1 (stateIn .loading 0 1 [(0x1000, 7)])).phase = .loading ∧
      ¬(memRead (capped 1 (stateIn .loading 0 1 [(0x1000, 7)])).snap 0x1000 = none ∧
        (capped 1 (stateIn .loading 0 1 [(0x1000, 7)])).config.snapCapacity =
          some (memSize (capped 1 (stateIn .loading 0 1 [(0x1000, 7)])).snap))) ∧
    ((capped 1 (stateIn .loading 0 1 [(0x1000, 7)])).phase = .loading ∧
      memRead (capped 1 (stateIn .loading 0 1 [(0x1000, 7)])).snap 0x1001 = none ∧
      (capped 1 (stateIn .loading 0 1 [(0x1000, 7)])).config.snapCapacity =
        some (memSize (capped 1 (stateIn .loading 0 1 [(0x1000, 7)])).snap)) ∧
    State.reset.phase ≠ .loading ∧ base.phase ≠ .loading := by decide

theorem witness_LookupRespondsExactKey :
    base.phase = .ready ∧ State.reset.phase ≠ .ready ∧ (stateIn .loading 0 1 []).phase ≠ .ready := by decide

theorem witness_XlateRespondsAsTheLoop :
    base.phase = .ready ∧ State.reset.phase ≠ .ready ∧ (stateIn .loading 0 1 []).phase ≠ .ready := by decide

theorem witness_PureOperationsDependOnOperandsOnly :
    1 ≤ (1 : U64).toNat ∧ (4 : U64).toNat ≤ 4 ∧ (0x80 : U64).getLsbD 7 = true ∧ (0x7F : U64).getLsbD 7 = false := by
  decide

/-! ## Witnesses for the statements on the walk -/

/-- The entries of the base context, present and with bit 7 clear. -/
theorem usable_base :
    UsableAt base.snap 0x1000 0x2001 ∧ UsableAt base.snap 0x2000 0x3001 ∧ UsableAt base.snap 0x3000 0x4001 ∧
    UsableAt base.snap 0x4000 0x5001 := by
  unfold UsableAt; decide

/-- An address with no cell is unusable. -/
theorem unusable_of_absent {m : Memory} {a : U64} (h : memRead m a = none) : UnusableAt m a := by
  intro d hd; rw [h] at hd; cases hd

/-- A large page of 1 GB at index 1 of level 2 and one of 2 MB at index 1 of level 3, beside the base context. -/
def largeBase : State := ready 0x1000 (scenarioCells ++ [(0x2008, 0x80000081), (0x3008, 0x600081)])

theorem usable_largeBase :
    UsableAt largeBase.snap 0x1000 0x2001 ∧ UsableAt largeBase.snap 0x2000 0x3001 ∧
    UsableAt largeBase.snap 0x2008 0x80000081 ∧ UsableAt largeBase.snap 0x3008 0x600081 := by
  unfold UsableAt; decide

/-- Each of the seven rows is met. -/
theorem witness_WalkEndsInExactlyOneRow :
    base.phase = .ready ∧ largeBase.phase = .ready ∧
    ResultRow base.snap base.root 0x8000000000 0 [0x1008] .fault ∧
    ResultRow base.snap base.root 0x40000000 1 [0x1000, 0x2008] .fault ∧
    ResultRow largeBase.snap largeBase.root 0x7FFFFFFF 2 [0x1000, 0x2008] (.ok 0xBFFFFFFF) ∧
    ResultRow base.snap base.root 0x200000 3 [0x1000, 0x2000, 0x3008] .fault ∧
    ResultRow largeBase.snap largeBase.root 0x3FFFFF 4 [0x1000, 0x2000, 0x3008] (.ok 0x7FFFFF) ∧
    ResultRow base.snap base.root 0x1000 5 [0x1000, 0x2000, 0x3000, 0x4008] .fault ∧
    ResultRow base.snap base.root 0xFFF 6 [0x1000, 0x2000, 0x3000, 0x4000] (.ok 0x5FFF) := by
  obtain ⟨u1, u2, u3, u4⟩ := usable_base
  obtain ⟨l1, l2, l3, l4⟩ := usable_largeBase
  refine ⟨rfl, rfl, ?_, ?_, ?_, ?_, ?_, ?_, ?_⟩
  · exact .fault1 (by decide) (unusable_of_absent (by decide))
  · exact .fault2 (by decide) u1 (by decide) (unusable_of_absent (by decide))
  · rw [show Response.ok 0xBFFFFFFF = .ok (specBase 0x80000081 + (0x7FFFFFFF &&& 0x3FFFFFFF)) by decide]
    exact .large2 (by decide) l1 (by decide) l3 (by decide)
  · exact .fault3 (by decide) u1 (by decide) u2 (by decide) (by decide) (unusable_of_absent (by decide))
  · rw [show Response.ok 0x7FFFFF = .ok (specBase 0x600081 + (0x3FFFFF &&& 0x1FFFFF)) by decide]
    exact .large3 (by decide) l1 (by decide) l2 (by decide) (by decide) l4 (by decide)
  · exact .fault4 (by decide) u1 (by decide) u2 (by decide) (by decide) u3 (by decide) (by decide)
      (unusable_of_absent (by decide))
  · rw [show Response.ok 0x5FFF = .ok (specBase 0x5001 + (0xFFF &&& 0xFFF)) by decide]
    exact .page4 (by decide) u1 (by decide) u2 (by decide) (by decide) u3 (by decide) (by decide) u4

/-- Both ways an entry can be unusable, at the first and at the last level. -/
theorem witness_FaultHasExactlyItsCause :
    base.phase = .ready ∧
    (walk base.snap base.root 0x8000000000).ending = .fault { level := .one, why := .absent } ∧
    (walk (load (scenarioCells ++ [(0x1000, 0x2000)])) 0x1000 0).ending =
      .fault { level := .one, why := .notPresent } ∧
    (walk base.snap base.root 0x1000).ending = .fault { level := .four, why := .absent } ∧
    (walk (load (scenarioCells ++ [(0x4000, 0x5000)])) 0x1000 0).ending =
      .fault { level := .four, why := .notPresent } := by decide

/-- The base context's walk of address 0 reaches its level-4 entry. -/
theorem reaches_base_fourth : Reaches base.snap base.root 0 4 0x4000 := by
  obtain ⟨u1, u2, u3, _⟩ := usable_base
  have h1 : Reaches base.snap base.root 0 1 0x1000 := .top
  have h2 : Reaches base.snap base.root 0 2 0x2000 := .second h1 u1
  have h3 : Reaches base.snap base.root 0 3 0x3000 := .third h2 u2 (by decide)
  exact .fourth h3 u3 (by decide)

theorem reaches_large_second : Reaches largeBase.snap largeBase.root 0x7FFFFFFF 2 0x2008 :=
  have h1 : Reaches largeBase.snap largeBase.root 0x7FFFFFFF 1 0x1000 := .top
  .second h1 usable_largeBase.1

theorem reaches_large_third : Reaches largeBase.snap largeBase.root 0x3FFFFF 3 0x3008 := by
  obtain ⟨l1, l2, _, _⟩ := usable_largeBase
  have h1 : Reaches largeBase.snap largeBase.root 0x3FFFFF 1 0x1000 := .top
  have h2 : Reaches largeBase.snap largeBase.root 0x3FFFFF 2 0x2000 := .second h1 l1
  exact .third h2 l2 (by decide)

/-- The premise alone, and a walk that reaches an unusable entry. -/
theorem witness_XlateFaultsExactlyOnUnusableEntry :
    base.phase = .ready ∧ Reaches base.snap base.root 0x8000000000 1 0x1008 ∧ UnusableAt base.snap 0x1008 :=
  ⟨rfl, .top, unusable_of_absent (by decide)⟩

theorem witness_FourLevelChainTranslates :
    base.phase = .ready ∧ Reaches base.snap base.root 0 4 0x4000 ∧ UsableAt base.snap 0x4000 0x5001 :=
  ⟨rfl, reaches_base_fourth, usable_base.2.2.2⟩

theorem witness_LargePagesTranslateByPlainSum :
    largeBase.phase = .ready ∧
    (UsableAt largeBase.snap 0x2008 0x80000081 ∧ (0x80000081 : U64) &&& 0x80 ≠ 0 ∧
      Reaches largeBase.snap largeBase.root 0x7FFFFFFF 2 0x2008) ∧
    (UsableAt largeBase.snap 0x3008 0x600081 ∧ (0x600081 : U64) &&& 0x80 ≠ 0 ∧
      Reaches largeBase.snap largeBase.root 0x3FFFFF 3 0x3008) :=
  ⟨rfl, ⟨usable_largeBase.2.2.1, by decide, reaches_large_second⟩,
    ⟨usable_largeBase.2.2.2, by decide, reaches_large_third⟩⟩

/-- For each of the three shifts, the last address of the region against another of it, with other bits 63:48. -/
theorem witness_TerminalDescriptorCoversItsRegion :
    (Reaches largeBase.snap largeBase.root 0x7FFFFFFF 2 0x2008 ∧ UsableAt largeBase.snap 0x2008 0x80000081 ∧
      EndsWalk 2 0x80000081 ∧
      (0xFFFF000040000000 : U64).extractLsb' (specShift 2) (48 - specShift 2) =
        (0x7FFFFFFF : U64).extractLsb' (specShift 2) (48 - specShift 2)) ∧
    (Reaches largeBase.snap largeBase.root 0x3FFFFF 3 0x3008 ∧ UsableAt largeBase.snap 0x3008 0x600081 ∧
      EndsWalk 3 0x600081 ∧
      (0xFFFF000000200000 : U64).extractLsb' (specShift 3) (48 - specShift 3) =
        (0x3FFFFF : U64).extractLsb' (specShift 3) (48 - specShift 3)) ∧
    (Reaches base.snap base.root 0 4 0x4000 ∧ UsableAt base.snap 0x4000 0x5001 ∧ EndsWalk 4 0x5001 ∧
      (0xFFFF000000000FFF : U64).extractLsb' (specShift 4) (48 - specShift 4) =
        (0 : U64).extractLsb' (specShift 4) (48 - specShift 4)) :=
  ⟨⟨reaches_large_second, usable_largeBase.2.2.1, .inr ⟨.inl rfl, by decide⟩, by decide⟩,
    ⟨reaches_large_third, usable_largeBase.2.2.2, .inr ⟨.inr rfl, by decide⟩, by decide⟩,
    ⟨reaches_base_fourth, usable_base.2.2.2, .inl rfl, by decide⟩⟩

theorem witness_LookupsAreTheReachedEntriesInOrder :
    (walk base.snap base.root 0x1000).ending = .fault { level := .four, why := .absent } ∧
    (walk base.snap base.root 0x1000).reads[3]? = some 0x4008 ∧
    (Reaches base.snap base.root 0 4 0x4000 ∧ UsableAt base.snap 0x4000 0x5001 ∧ EndsWalk 4 0x5001) ∧
    (Reaches largeBase.snap largeBase.root 0x7FFFFFFF 2 0x2008 ∧ UsableAt largeBase.snap 0x2008 0x80000081 ∧
      EndsWalk 2 0x80000081) :=
  ⟨by decide, by decide, ⟨reaches_base_fourth, usable_base.2.2.2, .inl rfl⟩,
    ⟨reaches_large_second, usable_largeBase.2.2.1, .inr ⟨.inl rfl, by decide⟩⟩⟩

/-- Two snapshots that differ off the walk. -/
theorem witness_WalkDependsOnLookedUpCellsOnly :
    (∀ a ∈ (walk base.snap base.root 0).reads, memRead largeBase.snap a = memRead base.snap a) ∧
    largeBase.snap ≠ base.snap := by
  refine ⟨?_, fun h => absurd (congrArg List.length h) (by decide)⟩
  rw [test_walk_four_levels]
  simp only [List.forall_mem_cons]
  exact ⟨by decide, by decide, by decide, by decide, fun _ h => by cases h⟩

/-- One cell with its ignored bits set and clear, one absent and not present, addresses that differ in bits 63:48. -/
theorem witness_IgnoredBitsNeverMatter :
    (ready 0x1000 [(0x1000, 0x2001), (0x2000, 0x80)]).phase = .ready ∧
    (ready 0x1000 [(0x1000, 0xFFF0000000002F7F)]).phase = .ready ∧
    (ready 0x1000 [(0x1000, 0x2001), (0x2000, 0x80)]).root = (ready 0x1000 [(0x1000, 0xFFF0000000002F7F)]).root ∧
    (∀ a, visible (memRead (ready 0x1000 [(0x1000, 0x2001), (0x2000, 0x80)]).snap a) =
      visible (memRead (ready 0x1000 [(0x1000, 0xFFF0000000002F7F)]).snap a)) ∧
    (0x123 : U64) &&& 0x0000FFFFFFFFFFFF = 0xFFFF000000000123 &&& 0x0000FFFFFFFFFFFF := by
  refine ⟨rfl, rfl, rfl, fun a => ?_, by decide⟩
  rw [show (ready 0x1000 [(0x1000, 0x2001), (0x2000, 0x80)]).snap = memWrite (memWrite [] 0x1000 0x2001) 0x2000 0x80
    from rfl, show (ready 0x1000 [(0x1000, 0xFFF0000000002F7F)]).snap = memWrite [] 0x1000 0xFFF0000000002F7F from rfl]
  simp only [memRead_memWrite, memRead_nil]
  split
  · next h => subst h; decide
  · split
    · decide
    · rfl

/-- Two states with one context and different transcripts, and a run of two queries. -/
theorem witness_XlateResponseIsFixedByContext :
    (base.phase = .ready ∧ ({ base with responses := [.fault] } : State).phase = .ready ∧
      (0x123 : U64).setWidth 48 = (0xFFFF000000000123 : U64).setWidth 48) ∧
    (∀ e ∈ ({ base with port := commandsOf [.xlate 0 0, .lookup 0 0] ++ [.reset] } : State).port.take 2, e ≠ .reset) ∧
    (nextOf (run 2 { base with port := commandsOf [.xlate 0 0, .lookup 0 0] ++ [.reset] })).isSome = true := by decide

theorem witness_XlateAlwaysResponds : base.phase = .ready := rfl

theorem witness_FilteringNotPresentCellsIsInvisibleToXlate :
    (ready 0x1000 [(0x1000, 0x2001), (0x2000, 0x80)]).phase = .ready ∧
    (ready 0x1000 [(0x1000, 0x2001), (0x2000, 0x80)]).snap.wf = true ∧
    (ready 0x1000 [(0x1000, 0x2001), (0x2000, 0x80)]).snap.filter (fun c => c.2 &&& 1 ≠ 0) = [(0x1000, 0x2001)] := by
  decide

theorem witness_TableBaseIsMaskedFrame :
    (0xFFF0000000002FFF : U64).extractLsb' 12 40 = (0x2001 : U64).extractLsb' 12 40 := by decide

theorem witness_AddressesStayWithinBounds :
    (walk (load [(0x1000, 0x000FFFFFFFFFF001), (0x000FFFFFFFFFFFF8, 0x000FFFFFFFFFF081)]) 0x1000 0x7FFFFFFFFF).ending =
      .ok 0x001000003FFFEFFF := by decide

/-- The first lookup at a wrapped address, and a later one. -/
theorem witness_OnlyTheFirstLookupUsesRoot :
    (walk [] 0xFFFFFFFFFFFFFFFC 0x8000000000).reads[0]? = some 0x4 ∧
    (walk base.snap base.root 0).reads[3]? = some 0x4000 := by decide

/-! ## Witnesses for the statements on a step -/

/-- The word of an encoded operation is the one its port offers. -/
theorem offers_offer {i : Instr} (s : State) (h : decode (encode i) = .ok i) : Offers (offer i s) i := ⟨_, _, rfl, h⟩

/-- It offers no other. -/
theorem offers_only {i j : Instr} {s : State} (h : decode (encode i) = .ok i) (hj : Offers (offer i s) j) : j = i := by
  obtain ⟨w, rest, hp, hd⟩ := hj
  cases hp
  rw [h] at hd
  cases hd
  rfl

/-- It offers no reset event. -/
theorem not_offersReset_offer (i : Instr) (s : State) : ¬OffersReset (offer i s) := by
  rintro ⟨rest, h⟩; cases h

/-- A step for each clause: the reset event, `CTXINIT`, the last `CELLWR`, and an operation that writes nothing, in
READY. -/
theorem witness_PhaseChangesOnlyAsListed :
    ((nextOf (step { base with port := [.reset] })).isSome = true ∧ OffersReset { base with port := [.reset] }) ∧
    ((nextOf (step (offer (.ctxinit 0x1000 0) State.reset))).isSome = true ∧
      Offers (offer (.ctxinit 0x1000 0) State.reset) (.ctxinit 0x1000 0)) ∧
    ((nextOf (step (offer (.cellwr 0 7) (stateIn .loading 0 1 [])))).isSome = true ∧
      Offers (offer (.cellwr 0 7) (stateIn .loading 0 1 [])) (.cellwr 0 7)) ∧
    ((nextOf (step (offer (.xlate 0 0) base))).isSome = true ∧ (offer (.xlate 0 0) base).phase = .ready ∧
      ¬OffersReset (offer (.xlate 0 0) base) ∧ (∀ root n, ¬Offers (offer (.xlate 0 0) base) (.ctxinit root n)) ∧
      ∀ p v, ¬Offers (offer (.xlate 0 0) base) (.cellwr p v)) := by
  refine ⟨⟨by decide, _, rfl⟩, ⟨by decide, offers_offer _ (by decide)⟩, ⟨by decide, offers_offer _ (by decide)⟩,
    by decide, rfl, not_offersReset_offer _ _, fun root n h => ?_, fun p v h => ?_⟩
  · cases offers_only (by decide) h
  · cases offers_only (by decide) h

theorem witness_SnapshotWrittenOnlyByCellwr :
    (nextOf (step (offer (.cellwr 0 7) (stateIn .loading 0 1 [])))).isSome = true ∧
    ¬OffersReset (offer (.cellwr 0 7) (stateIn .loading 0 1 [])) ∧
    (nextOf (step (offer (.xlate 0 0) base))).isSome = true ∧ ¬OffersReset (offer (.xlate 0 0) base) ∧
    memRead base.snap 0x1000 ≠ none :=
  ⟨by decide, not_offersReset_offer _ _, by decide, not_offersReset_offer _ _, by decide⟩

/-- The clauses' operations are those of `witness_PhaseChangesOnlyAsListed`; here the one that writes neither. -/
theorem witness_RootAndRemainHaveTheirWritersOnly :
    (nextOf (step (offer (.ctxinit 0x1000 0) State.reset))).isSome = true ∧
    Offers (offer (.ctxinit 0x1000 0) State.reset) (.ctxinit 0x1000 0) ∧
    (nextOf (step (offer (.cellwr 0 7) (stateIn .loading 0 1 [])))).isSome = true ∧
    Offers (offer (.cellwr 0 7) (stateIn .loading 0 1 [])) (.cellwr 0 7) ∧
    (nextOf (step (offer (.lookup 0 0) base))).isSome = true ∧ ¬OffersReset (offer (.lookup 0 0) base) ∧
    (∀ root n, ¬Offers (offer (.lookup 0 0) base) (.ctxinit root n)) ∧
    ∀ p v, ¬Offers (offer (.lookup 0 0) base) (.cellwr p v) := by
  refine ⟨by decide, offers_offer _ (by decide), by decide, offers_offer _ (by decide), by decide,
    not_offersReset_offer _ _, fun root n h => ?_, fun p v h => ?_⟩
  · cases offers_only (by decide) h
  · cases offers_only (by decide) h

/-- An operation, the reset event and the idle port. -/
theorem witness_EachOperationGivesOneResponse :
    (nextOf (step (offer (.xlate 0 0) base))).isSome = true ∧
    (nextOf (step { base with port := [.reset] })).isSome = true ∧ (nextOf (step base)).isSome = true := by decide

/-- Each of the four listed cases is met. -/
theorem witness_RefusalsAreExactlyThoseListed :
    OffersReserved { base with port := [.command 0x800000000000000000000000000000000#132] } ∧
    (Offers (offer (.cellwr 0 0) base) (.cellwr 0 0) ∧ acceptedIn (.cellwr 0 0) base.phase = false) ∧
    (Offers (offer (.lpdet 0 5) base) (.lpdet 0 5) ∧ 4 < (5 : U64).toNat) ∧
    (Offers (offer (.cellwr 0 0) (capped 0 (stateIn .loading 0 1 []))) (.cellwr 0 0) ∧
      memRead (stateIn .loading 0 1 []).snap 0 = none ∧ memSize (stateIn .loading 0 1 []).snap = 0) :=
  ⟨⟨_, _, rfl, .inr (by decide)⟩, ⟨offers_offer _ (by decide), rfl⟩, ⟨offers_offer _ (by decide), by decide⟩,
    ⟨offers_offer _ (by decide), rfl, rfl⟩⟩

/-- A consistent state in LOADING, with the capacity reached, in which a `CELLWR` is accepted. -/
theorem consistent_loading : Consistent (capped 1 (stateIn .loading 0x1000 2 [(0x1000, 0x2001)])) where
  canonical := by decide
  emptyHasNoCell := by decide
  loadingAwaitsCells := by decide
  readyAwaitsNone := by decide
  withinCapacity := by intro c h; cases h; decide

theorem witness_StepKeepsConsistent :
    Consistent (capped 1 (stateIn .loading 0x1000 2 [(0x1000, 0x2001)])) ∧
    (nextOf (exec (.cellwr 0x1000 0) (capped 1 (stateIn .loading 0x1000 2 [(0x1000, 0x2001)])))).isSome = true ∧
    (nextOf (step (capped 1 (stateIn .loading 0x1000 2 [(0x1000, 0x2001)])))).isSome = true :=
  ⟨consistent_loading, by decide, by decide⟩

theorem witness_ContextConstantWhileReady :
    ({ base with port := commandsOf [.xlate 0 0, .vadec 0 0] ++ [.reset] } : State).phase = .ready ∧
    (∀ e ∈ ({ base with port := commandsOf [.xlate 0 0, .vadec 0 0] ++ [.reset] } : State).port.take 2, e ≠ .reset) ∧
    (nextOf (run 2 { base with port := commandsOf [.xlate 0 0, .vadec 0 0] ++ [.reset] })).isSome = true := by decide

/-! ## Witnesses for the statements on memory and runs -/

/-- Two orders of loading. -/
theorem witness_CanonicalSnapshotsThatReadAlikeAreEqual :
    (load [(0x2000, 1), (0x1000, 2)]).wf = true ∧ (load [(0x1000, 2), (0x2000, 1)]).wf = true ∧
    ∀ a, memRead (load [(0x2000, 1), (0x1000, 2)]) a = memRead (load [(0x1000, 2), (0x2000, 1)]) a :=
  ⟨by decide, by decide, fun _ => congrArg (memRead · _) (by decide)⟩

/-- Two writes to one key: unbounded, with one more cell to come; and at a capacity of 1, which the key's repeat does not
count against, with the count just met. -/
theorem witness_LastWriteWins :
    (Consistent (stateIn .loading 0 3 []) ∧ (stateIn .loading 0 3 []).phase = .loading ∧
      [((0 : U64), (1 : U64)), (0, 2)].length ≤ (stateIn .loading 0 3 []).remain.toNat ∧
      ({ stateIn .loading 0 3 [] with port := commandsOf [.cellwr 0 1, .cellwr 0 2] } : State).port =
        commandsOf ([((0 : U64), (1 : U64)), (0, 2)].map (fun c => .cellwr c.1 c.2)) ++ []) ∧
    Consistent (capped 1 (stateIn .loading 0 2 [])) ∧
    [((0 : U64), (1 : U64)), (0, 2)].length ≤ (capped 1 (stateIn .loading 0 2 [])).remain.toNat ∧
    (∀ c, (capped 1 (stateIn .loading 0 2 [])).config.snapCapacity = some c →
      memSize (capped 1 (stateIn .loading 0 2 [])).snap +
        (([((0 : U64), (1 : U64)), (0, 2)].map Prod.fst).dedup.filter
          (fun p => memRead (capped 1 (stateIn .loading 0 2 [])).snap p = none)).length ≤ c) :=
  ⟨⟨⟨by decide, by decide, by decide, by decide, fun _ h => by cases h⟩, by decide, by decide, by decide⟩,
    ⟨by decide, by decide, by decide, by decide, fun _ h => by cases h; decide⟩, by decide,
    fun c h => by cases h; decide⟩

/-- One key new and one there, with room for just the new one. -/
theorem witness_LoadOrderOfDistinctKeysIsFree :
    Consistent (capped 2 (stateIn .loading 0x1000 2 [(0, 7)])) ∧ (0 : U64) ≠ 1 ∧
    (∃ t t', exec (.cellwr 0 8) (capped 2 (stateIn .loading 0x1000 2 [(0, 7)])) = .next t ∧
      exec (.cellwr 1 9) t = .next t') :=
  ⟨⟨by decide, by decide, by decide, by decide, fun _ h => by cases h; decide⟩, by decide, ⟨_, _, rfl, rfl⟩⟩

/-- The snapshot is full: a new key, and the key that is there. -/
theorem witness_CapacityNeverDropsCells :
    Consistent (capped 1 (stateIn .loading 0x1000 2 [(0x1000, 0x2001)])) ∧
    (memSize (load [(0x1000, 0x2001)]) = 1 ∧ memRead (load [(0x1000, 0x2001)]) 0x1001 = none) ∧
    ¬(memSize (load [(0x1000, 0x2001)]) = 1 ∧ memRead (load [(0x1000, 0x2001)]) 0x1000 = none) :=
  ⟨consistent_loading, by decide, by decide⟩

/-- A run with one key twice, within a capacity of 2, a pure operation before it and one amid it, and a lookup. -/
def mixedRun : List Instr :=
  [.vadec 7 0, .ctxinit 0 3, .cellwr 0 1, .lpdet 0 4, .cellwr 8 1, .cellwr 0 2, .xlate 0 9, .lookup 0 0, .xlate 1 0]

theorem witness_RunIsFunctionOfRootCellsAndQueries :
    (capped 2 State.reset).phase = .empty ∧ (capped 2 State.reset).snap = [] ∧
    HoldsDistinct (capped 2 State.reset) ([((0 : U64), (1 : U64)), (8, 1), (0, 2)].map Prod.fst) ∧
    (∀ i ∈ mixedRun, wellFormed i = true) ∧
    mixedRun.filter (fun i => !isPure i) =
      .ctxinit 0 3 :: ([((0 : U64), (1 : U64)), (8, 1), (0, 2)].map (fun c => .cellwr c.1 c.2) ++
        [.xlate 0 9, .lookup 0 0, .xlate 1 0]) ∧
    [((0 : U64), (1 : U64)), (8, 1), (0, 2)].length = (3 : U64).toNat ∧
    (∀ q ∈ [Instr.xlate 0 9, .lookup 0 0, .xlate 1 0], isQuery q = true) ∧
    ({ capped 2 State.reset with port := commandsOf mixedRun } : State).port = commandsOf mixedRun ++ [] :=
  ⟨rfl, rfl, fun c h => by cases h; decide, by decide, by decide, by decide, by decide, by simp⟩

/-- A dataset with one key twice. -/
def smallDataset : Dataset := { root := 0x1000, cells := [(0, 1), (0x1000, 0x2001), (0, 2)], queries := [0, 0x8000000000] }

theorem witness_DatasetRunGivesItsOutputText :
    smallDataset.cells.length < 2 ^ 64 ∧ (capped 2 State.reset).phase = .empty ∧ (capped 2 State.reset).snap = [] ∧
    HoldsDistinct (capped 2 State.reset) (smallDataset.cells.map Prod.fst) ∧
    ({ capped 2 State.reset with port := commandsOf smallDataset.commands } : State).port =
      commandsOf smallDataset.commands ++ [] :=
  ⟨by decide, rfl, rfl, fun c h => by cases h; decide, by simp⟩

/-- The premises at a capacity; a run that begins well and whose keys just fit, one whose keys do not fit, and one that stops
short of its cells. -/
theorem witness_UnrefusedRunsAreTheWellFormed :
    ((capped 2 State.reset).phase = .empty ∧ (capped 2 State.reset).snap = [] ∧
      ({ capped 2 State.reset with port := commandsOf mixedRun } : State).port = commandsOf mixedRun ++ []) ∧
    (BeginsWellFormedRun mixedRun ∧ HoldsDistinct (capped 2 State.reset) (writtenKeys mixedRun)) ∧
    ¬HoldsDistinct (capped 1 State.reset) (writtenKeys mixedRun) ∧
    BeginsWellFormedRun [.ctxinit 0x1000 2, .cellwr 0x1000 0] :=
  ⟨⟨rfl, rfl, by simp⟩,
    ⟨⟨by decide, .inr ⟨0, 3, [.cellwr 0 1, .cellwr 8 1, .cellwr 0 2], [.xlate 0 9, .lookup 0 0, .xlate 1 0], by decide,
      by decide, by decide, by decide⟩⟩, fun c h => by cases h; decide⟩,
    fun h => absurd (h 1 rfl) (by decide),
    ⟨by decide, .inr ⟨0x1000, 2, [.cellwr 0x1000 0], [], by decide, by decide, by decide, by decide⟩⟩⟩

theorem witness_ResetValuesAreUnobservable :
    (offer (.ctxinit 0x1000 0) State.reset).phase = .empty ∧ (offer (.xlate 0 0) State.reset).phase = .empty := by decide

theorem witness_DecodeAndEncodeAgree :
    decode 0x3ABCD008000000FFF0000000000000001#132 = .ok (.xlate 0xABCD008000000FFF 1) := by decide

theorem witness_DatasetTokensParseBack :
    ([((0x1000 : U64), (0x2001 : U64))]).length < 2 ^ 64 ∧ [(0 : U64), 1].length < 2 ^ 64 := by decide

theorem witness_DatasetTextReadsBack : smallDataset.cells.length < 2 ^ 64 ∧ smallDataset.queries.length < 2 ^ 64 := by
  decide

theorem witness_OutputHasOneLinePerQuery :
    ∀ r ∈ [Response.ok 0x5000, .fault], r = .fault ∨ ∃ pa, r = .ok pa := by
  intro r h
  rcases List.mem_cons.1 h with rfl | h
  · exact .inr ⟨_, rfl⟩
  · cases List.mem_singleton.1 h; exact .inl rfl

end Sys2Proof.Tests
end

section
/-!
SUPPORT. The operations and the port: the step of a decoded command, why an operation is refused, and that an operation
depends on neither the port nor the responses given.
-/

namespace Sys2Proof.Machine

/-! ## The step of a command -/

/-- A command word that decodes runs its operation on the rest of the port (rule R9). -/
theorem step_of_command {s : State} {w : CmdWord} {rest : List HostEvent} {i : Instr}
    (h : s.port = .command w :: rest) (hd : decode w = .ok i) : step s = exec i (s.withPort rest) := by
  simp only [step, fetch_of_command h hd]

/-! ## Rule R74's table, row by row -/

@[simp] theorem acceptedIn_ctxinit (root count : U64) (p : Phase) :
    acceptedIn (.ctxinit root count) p = decide (p = .empty) := by cases p <;> rfl

@[simp] theorem acceptedIn_cellwr (paddr raw : U64) (p : Phase) :
    acceptedIn (.cellwr paddr raw) p = decide (p = .loading) := by cases p <;> rfl

@[simp] theorem acceptedIn_xlate (va b : U64) (p : Phase) :
    acceptedIn (.xlate va b) p = decide (p = .ready) := by cases p <;> rfl

@[simp] theorem acceptedIn_lookup (paddr b : U64) (p : Phase) :
    acceptedIn (.lookup paddr b) p = decide (p = .ready) := by cases p <;> rfl

@[simp] theorem acceptedIn_vadec (va b : U64) (p : Phase) : acceptedIn (.vadec va b) p = true := rfl

@[simp] theorem acceptedIn_pddec (raw b : U64) (p : Phase) : acceptedIn (.pddec raw b) p = true := rfl

@[simp] theorem acceptedIn_lpdet (raw level : U64) (p : Phase) : acceptedIn (.lpdet raw level) p = true := rfl

/-! ## Refusals -/

/-- An operation that the table does not accept in the phase is refused (rule R74). -/
theorem exec_badPhase {i : Instr} {s : State} (h : acceptedIn i s.phase = false) : exec i s = .refused .badPhase := by
  cases i with
  | ctxinit root count => exact requirePhase_of_ne (by simpa using h) _
  | cellwr paddr raw => exact requirePhase_of_ne (by simpa using h) _
  | xlate va b => exact requirePhase_of_ne (by simpa using h) _
  | lookup paddr b => exact requirePhase_of_ne (by simpa using h) _
  | vadec va b => simp at h
  | pddec raw b => simp at h
  | lpdet raw level => simp at h

/-- Everything that can refuse an operation: the phase, the level of `LPDET`, or the capacity (rule R188). -/
theorem exec_refused_cases {i : Instr} {s : State} {r : Refusal} (h : exec i s = .refused r) :
    (r = .badPhase ∧ acceptedIn i s.phase = false) ∨
    (r = .badLevel ∧ ∃ raw level, i = .lpdet raw level ∧ levelOf level = none) ∨
    (r = .capacity ∧ s.phase = .loading ∧ ∃ paddr raw, i = .cellwr paddr raw ∧
      memRead s.snap paddr = none ∧ atCapacity s = true) := by
  cases i with
  | ctxinit root count =>
    rcases requirePhase_refused h with ⟨hp, rfl⟩ | ⟨_, he⟩
    · exact .inl ⟨rfl, by simpa using hp⟩
    · cases he
  | cellwr paddr raw =>
    rcases requirePhase_refused h with ⟨hp, rfl⟩ | ⟨hp, he⟩
    · exact .inl ⟨rfl, by simpa using hp⟩
    · split at he
      · next hc => cases he; exact .inr (.inr ⟨rfl, hp, paddr, raw, rfl, hc⟩)
      · cases he
  | xlate va b =>
    rcases requirePhase_refused h with ⟨hp, rfl⟩ | ⟨_, he⟩
    · exact .inl ⟨rfl, by simpa using hp⟩
    · rw [WalkEnd.deliver_eq] at he; cases he
  | vadec va b => cases h
  | pddec raw b => cases h
  | lpdet raw level =>
    rcases hl : levelOf level with _ | k
    · rw [exec_lpdet_badLevel hl] at h; cases h; exact .inr (.inl ⟨rfl, raw, level, rfl, hl⟩)
    · rw [exec_lpdet_of_level hl] at h; cases h
  | lookup paddr b =>
    rcases requirePhase_refused h with ⟨hp, rfl⟩ | ⟨_, he⟩
    · exact .inl ⟨rfl, by simpa using hp⟩
    · cases he

/-! ## The port and the responses are not looked at -/

/-- The same block before another host: `s` with other events still to come and other responses already given. -/
def State.withHost (s : State) (p : List HostEvent) (rs : List Response) : State :=
  { s with port := p, responses := rs }

/-- What a walk's end tells the host is `OK(pa)` or `Fault` (rule R79). -/
theorem givesResponse_walkEnd (va b : U64) (e : WalkEnd) : givesResponse (.xlate va b) e.response := by
  cases e with
  | ok pa => exact .inr ⟨pa, rfl⟩
  | fault cause => exact .inl rfl

/-- An accepted operation leaves the port and adds one response of its own kind, and its effect and that response are the
same with any other port and any other responses before it (rules R9 and R25). -/
theorem exec_next_response {i : Instr} {s t : State} (h : exec i s = .next t) :
    ∃ r, givesResponse i r ∧ t.port = s.port ∧ t.responses = s.responses ++ [r] ∧
      ∀ (p : List HostEvent) (rs : List Response),
        exec i (s.withHost p rs) = .next (t.withHost p (rs ++ [r])) := by
  rcases exec_next_cases h with ⟨root, count, rfl, hp, rfl⟩ | ⟨paddr, raw, rfl, hp, hc, rfl⟩ | ⟨va, b, rfl, hp, rfl⟩ |
    ⟨va, b, rfl, rfl⟩ | ⟨raw, b, rfl, rfl⟩ | ⟨raw, level, k, rfl, hl, rfl⟩ | ⟨paddr, b, rfl, hp, rfl⟩
  · exact ⟨_, rfl, rfl, rfl, fun p rs => exec_ctxinit_of_empty (s := s.withHost p rs) hp root count⟩
  · exact ⟨_, rfl, rfl, rfl, fun p rs => exec_cellwr_of_room (s := s.withHost p rs) hp hc raw⟩
  · exact ⟨_, givesResponse_walkEnd va b _, rfl, rfl, fun p rs => exec_xlate_of_ready (s := s.withHost p rs) hp va b⟩
  · exact ⟨_, ⟨_, rfl⟩, rfl, rfl, fun _ _ => exec_vadec va b _⟩
  · exact ⟨_, ⟨_, rfl⟩, rfl, rfl, fun _ _ => exec_pddec raw b _⟩
  · exact ⟨_, ⟨_, rfl⟩, rfl, rfl, fun _ _ => exec_lpdet_of_level hl raw _⟩
  · exact ⟨_, ⟨_, rfl⟩, rfl, rfl, fun p rs => exec_lookup_of_ready (s := s.withHost p rs) hp paddr b⟩

/-- A refused operation is refused for the same reason with any other port and any other responses (rule R25). -/
theorem exec_refused_withHost {i : Instr} {s : State} {r : Refusal} (h : exec i s = .refused r) (p : List HostEvent)
    (rs : List Response) : exec i (s.withHost p rs) = .refused r := by
  rcases exec_refused_cases h with ⟨rfl, ha⟩ | ⟨rfl, raw, level, rfl, hl⟩ | ⟨rfl, hp, paddr, raw, rfl, hc⟩
  · exact exec_badPhase (s := s.withHost p rs) ha
  · exact exec_lpdet_badLevel hl raw _
  · exact exec_cellwr_of_full (s := s.withHost p rs) hp hc raw

/-! ## The statements -/

/-- Settles O6: the accepted case and the refused case are `exec_next_response` and `exec_refused_withHost`. -/
theorem operationsIgnorePortAndTranscript : Obligations.OperationsIgnorePortAndTranscript := by
  intro i s p rs
  refine ⟨fun t h => ?_, fun r h => exec_refused_withHost h p rs⟩
  obtain ⟨r, _, hport, hresp, hsame⟩ := exec_next_response h
  exact ⟨hport, r, hresp, hsame p rs⟩

/-- Settles O36, by the three things a step can do. -/
theorem eachOperationGivesOneResponse : Obligations.EachOperationGivesOneResponse := by
  intro s t h
  rcases step_next_cases h with ⟨hp, rfl⟩ | ⟨rest, hp, rfl⟩ | ⟨w, rest, i, hp, hd, he⟩
  case inl => exact ⟨by simp [hp], .inr ⟨.inr hp, rfl⟩⟩
  case inr.inl => exact ⟨by simp [hp], .inr ⟨.inl ⟨rest, hp⟩, rfl⟩⟩
  case inr.inr =>
    obtain ⟨r, hkind, hport, hresp, _⟩ := exec_next_response he
    exact ⟨by simp [hport, hp], .inl ⟨i, r, ⟨w, rest, hp, hd⟩, hkind, hresp⟩⟩

/-- Settles O4. -/
theorem stepRunsDecodedCommand : Obligations.StepRunsDecodedCommand :=
  fun _ _ _ _ h hd => step_of_command h hd

end Sys2Proof.Machine
end

section
/-!
SUPPORT. The registers and the snapshot over one step: which event writes them, with what, and that every other event
keeps them (10_state.md section 2).
-/

namespace Sys2Proof.Machine

/-! ## The same block before another host -/

@[simp] theorem State.withHost_phase (s : State) (p : List HostEvent) (rs : List Response) : (s.withHost p rs).phase = s.phase := rfl
@[simp] theorem State.withHost_root (s : State) (p : List HostEvent) (rs : List Response) : (s.withHost p rs).root = s.root := rfl
@[simp] theorem State.withHost_remain (s : State) (p : List HostEvent) (rs : List Response) : (s.withHost p rs).remain = s.remain := rfl
@[simp] theorem State.withHost_snap (s : State) (p : List HostEvent) (rs : List Response) : (s.withHost p rs).snap = s.snap := rfl
@[simp] theorem State.withHost_config (s : State) (p : List HostEvent) (rs : List Response) : (s.withHost p rs).config = s.config := rfl
@[simp] theorem State.withHost_port (s : State) (p : List HostEvent) (rs : List Response) : (s.withHost p rs).port = p := rfl
@[simp] theorem State.withHost_responses (s : State) (p : List HostEvent) (rs : List Response) : (s.withHost p rs).responses = rs := rfl

/-! ## The three events that write, and all the others -/

/-- An accepted `CTXINIT` was in EMPTY and creates its context. -/
theorem exec_ctxinit_next {root n : U64} {s t : State} (h : exec (.ctxinit root n) s = .next t) :
    s.phase = .empty ∧ t = (s.initContext root n).addResponse .done := by
  obtain ⟨hp, he⟩ := requirePhase_next h
  cases he
  exact ⟨hp, rfl⟩

/-- An accepted `CELLWR` was in LOADING and stores its cell. -/
theorem exec_cellwr_next {p v : U64} {s t : State} (h : exec (.cellwr p v) s = .next t) :
    s.phase = .loading ∧ t = (s.storeCell p v).addResponse .done := by
  obtain ⟨hp, he⟩ := requirePhase_next h
  split at he
  · cases he
  · cases he; exact ⟨hp, rfl⟩

/-- Every other accepted operation gives its response and changes nothing else. -/
theorem exec_next_of_not_writer {i : Instr} {s t : State} (h : exec i s = .next t)
    (hinit : ∀ root n, i ≠ .ctxinit root n) (hcell : ∀ p v, i ≠ .cellwr p v) : ∃ r, t = s.addResponse r := by
  rcases exec_next_cases h with ⟨root, n, hi, _, _⟩ | ⟨p, v, hi, _, _, _⟩ | ⟨_, _, _, _, ht⟩ | ⟨_, _, _, ht⟩ |
    ⟨_, _, _, ht⟩ | ⟨_, _, _, _, _, ht⟩ | ⟨_, _, _, _, ht⟩
  · exact absurd hi (hinit root n)
  · exact absurd hi (hcell p v)
  all_goals exact ⟨_, ht⟩

/-- After the reset event the block is as `applyReset` leaves it (rule R200). -/
theorem step_next_of_offersReset {s t : State} (h : step s = .next t) (ho : OffersReset s) :
    ∃ q rs, t = s.applyReset.withHost q rs := by
  obtain ⟨rest, hp⟩ := ho
  simp only [step, fetch_of_reset hp] at h
  cases h
  exact ⟨rest, s.responses, rfl⟩

/-- A step that took `CTXINIT` was in EMPTY, and the block holds the new context (rule R131). -/
theorem step_next_of_offers_ctxinit {s t : State} {root n : U64} (h : step s = .next t)
    (ho : Offers s (.ctxinit root n)) : s.phase = .empty ∧ ∃ q rs, t = (s.initContext root n).withHost q rs := by
  obtain ⟨w, rest, hp, hd⟩ := ho
  rw [step_of_command hp hd] at h
  obtain ⟨hphase, rfl⟩ := exec_ctxinit_next h
  exact ⟨hphase, rest, s.responses ++ [.done], rfl⟩

/-- A step that took `CELLWR` was in LOADING, and the block holds the new cell (rule R132). -/
theorem step_next_of_offers_cellwr {s t : State} {p v : U64} (h : step s = .next t)
    (ho : Offers s (.cellwr p v)) : s.phase = .loading ∧ ∃ q rs, t = (s.storeCell p v).withHost q rs := by
  obtain ⟨w, rest, hport, hd⟩ := ho
  rw [step_of_command hport hd] at h
  obtain ⟨hphase, rfl⟩ := exec_cellwr_next h
  exact ⟨hphase, rest, s.responses ++ [.done], rfl⟩

/-- A step that took none of these left the block as it was (rule R25). -/
theorem step_next_of_no_writer {s t : State} (h : step s = .next t) (hreset : ¬OffersReset s)
    (hinit : ∀ root n, ¬Offers s (.ctxinit root n)) (hcell : ∀ p v, ¬Offers s (.cellwr p v)) :
    ∃ q rs, t = s.withHost q rs := by
  rcases step_next_cases h with ⟨_, rfl⟩ | ⟨rest, hp, _⟩ | ⟨w, rest, i, hp, hd, he⟩
  case inl => exact ⟨t.port, t.responses, rfl⟩
  case inr.inl => exact absurd ⟨rest, hp⟩ hreset
  case inr.inr =>
    have ho : Offers s i := ⟨w, rest, hp, hd⟩
    obtain ⟨r, rfl⟩ := exec_next_of_not_writer he (fun root n hi => hinit root n (hi ▸ ho))
      (fun p v hi => hcell p v (hi ▸ ho))
    exact ⟨rest, s.responses ++ [r], rfl⟩

/-- Everything a step other than the reset event can do to the block. -/
theorem step_next_writer_cases {s t : State} (h : step s = .next t) (hreset : ¬OffersReset s) :
    (∃ root n, Offers s (.ctxinit root n) ∧ s.phase = .empty ∧ ∃ q rs, t = (s.initContext root n).withHost q rs) ∨
    (∃ p v, Offers s (.cellwr p v) ∧ s.phase = .loading ∧ ∃ q rs, t = (s.storeCell p v).withHost q rs) ∨
    (∃ q rs, t = s.withHost q rs) := by
  by_cases hinit : ∃ root n, Offers s (.ctxinit root n)
  · obtain ⟨root, n, ho⟩ := hinit
    exact .inl ⟨root, n, ho, step_next_of_offers_ctxinit h ho⟩
  by_cases hcell : ∃ p v, Offers s (.cellwr p v)
  · obtain ⟨p, v, ho⟩ := hcell
    exact .inr (.inl ⟨p, v, ho, step_next_of_offers_cellwr h ho⟩)
  · exact .inr (.inr (step_next_of_no_writer h hreset (fun root n ho => hinit ⟨root, n, ho⟩)
      (fun p v ho => hcell ⟨p, v, ho⟩)))

/-- In READY nothing but the reset event writes the block: the two writers want another phase (rules R22 and R23). -/
theorem step_next_of_ready {s t : State} (h : step s = .next t) (hready : s.phase = .ready) (hreset : ¬OffersReset s) :
    ∃ q rs, t = s.withHost q rs := by
  rcases step_next_writer_cases h hreset with ⟨_, _, _, hp, _⟩ | ⟨_, _, _, hp, _⟩ | hkeep
  · rw [hready] at hp; cases hp
  · rw [hready] at hp; cases hp
  · exact hkeep

/-- A write removes no key (rule R22). -/
theorem memRead_memWrite_ne_none {m : Memory} {b : U64} (h : memRead m b ≠ none) (a v : U64) :
    memRead (memWrite m a v) b ≠ none := by
  rw [memRead_memWrite]
  split
  · exact Option.some_ne_none v
  · exact h

/-! ## The statements -/

/-- Settles O33, clause by clause from the event that was taken. -/
theorem phaseChangesOnlyAsListed : Obligations.PhaseChangesOnlyAsListed := by
  intro s t h
  refine ⟨fun ho => ?_, fun root n ho => ?_, fun p v ho => ?_, fun hreset hinit hcell => ?_, fun hready hreset => ?_⟩
  · obtain ⟨q, rs, rfl⟩ := step_next_of_offersReset h ho
    simp
  · obtain ⟨hphase, q, rs, rfl⟩ := step_next_of_offers_ctxinit h ho
    exact ⟨hphase, rfl⟩
  · obtain ⟨hphase, q, rs, rfl⟩ := step_next_of_offers_cellwr h ho
    exact ⟨hphase, rfl⟩
  · obtain ⟨q, rs, rfl⟩ := step_next_of_no_writer h hreset hinit hcell
    simp
  · obtain ⟨q, rs, rfl⟩ := step_next_of_ready h hready hreset
    simp [hready]

/-- Settles O34: only the step of a `CELLWR` has another snapshot after it, and that one is one write away. -/
theorem snapshotWrittenOnlyByCellwr : Obligations.SnapshotWrittenOnlyByCellwr := by
  intro s t h hreset
  rcases step_next_writer_cases h hreset with ⟨root, n, _, _, q, rs, rfl⟩ | ⟨p, v, ho, hphase, q, rs, rfl⟩ |
    ⟨q, rs, rfl⟩
  case inl => simp
  case inr.inl =>
    exact ⟨fun _ ha => memRead_memWrite_ne_none ha p v,
      .inr ⟨hphase, p, v, ho, memRead_memWrite_self s.snap p v, fun _ ha => memRead_memWrite_other ha s.snap v⟩⟩
  case inr.inr => simp

/-- No step writes the parameter (log entry 3). -/
theorem step_next_config {s t : State} (h : step s = .next t) : t.config = s.config := by
  by_cases hreset : OffersReset s
  · obtain ⟨q, rs, rfl⟩ := step_next_of_offersReset h hreset
    simp
  · rcases step_next_writer_cases h hreset with ⟨_, _, _, _, q, rs, rfl⟩ | ⟨_, _, _, _, q, rs, rfl⟩ | ⟨q, rs, rfl⟩
    all_goals simp

/-- Settles O35, clause by clause from the event that was taken. -/
theorem rootAndRemainHaveTheirWritersOnly : Obligations.RootAndRemainHaveTheirWritersOnly := by
  intro s t h
  refine ⟨step_next_config h, fun root n ho => ?_, fun p v ho => ?_, fun hreset hinit hcell => ?_⟩
  · obtain ⟨_, q, rs, rfl⟩ := step_next_of_offers_ctxinit h ho
    simp
  · obtain ⟨_, q, rs, rfl⟩ := step_next_of_offers_cellwr h ho
    simp
  · obtain ⟨q, rs, rfl⟩ := step_next_of_no_writer h hreset hinit hcell
    simp

/-- Settles O38: no cell, the phase EMPTY, and no bound on the capacity. -/
theorem resetIsConsistent : Obligations.ResetIsConsistent where
  canonical := reset_snap_wf
  emptyHasNoCell _ := State.reset_snap
  loadingAwaitsCells h := by simp at h
  readyAwaitsNone h := by simp at h
  withinCapacity c h := by simp at h

end Sys2Proof.Machine
end

section
/-!
SUPPORT. What `ROOT` and `REMAIN` hold in EMPTY is overwritten before anything reads it (rules R31 and R201).
-/

namespace Sys2Proof.Machine

/-- `s` with other values in the two registers that reset leaves unspecified. -/
def State.withRegisters (s : State) (root remain : U64) : State := { s with root := root, remain := remain }

theorem State.withRegisters_withPort (s : State) (root remain : U64) (rest : List HostEvent) :
    (s.withRegisters root remain).withPort rest = (s.withPort rest).withRegisters root remain := rfl

/-- The reset event gives both registers new values. -/
@[simp] theorem State.withRegisters_applyReset (s : State) (root remain : U64) :
    (s.withRegisters root remain).applyReset = s.applyReset := rfl

/-- So does `CTXINIT`. -/
@[simp] theorem State.withRegisters_initContext (s : State) (root remain root' count : U64) :
    (s.withRegisters root remain).initContext root' count = s.initContext root' count := rfl

/-- In EMPTY an operation either has one outcome whatever the registers hold (it is refused, or is the `CTXINIT` that
overwrites them), or gives a response that does not depend on them and stays in EMPTY. -/
theorem exec_withRegisters_of_empty {s : State} (h : s.phase = .empty) (i : Instr) (root remain : U64) :
    exec i (s.withRegisters root remain) = exec i s ∨
    ∃ r, exec i s = .next (s.addResponse r) ∧
      exec i (s.withRegisters root remain) = .next ((s.addResponse r).withRegisters root remain) := by
  cases ha : acceptedIn i s.phase with
  | false => exact .inl ((exec_badPhase (s := s.withRegisters root remain) ha).trans (exec_badPhase ha).symm)
  | true =>
    cases i with
    | ctxinit root' count =>
      left
      rw [exec_ctxinit_of_empty h, exec_ctxinit_of_empty (s := s.withRegisters root remain) h,
        State.withRegisters_initContext]
    | cellwr p v => simp [h] at ha
    | xlate va b => simp [h] at ha
    | lookup p b => simp [h] at ha
    | vadec va b => exact .inr ⟨_, exec_vadec va b s, exec_vadec va b _⟩
    | pddec raw b => exact .inr ⟨_, exec_pddec raw b s, exec_pddec raw b _⟩
    | lpdet raw level =>
      cases hl : levelOf level with
      | none => exact .inl ((exec_lpdet_badLevel hl raw _).trans (exec_lpdet_badLevel hl raw s).symm)
      | some k => exact .inr ⟨_, exec_lpdet_of_level hl raw s, exec_lpdet_of_level hl raw _⟩

/-- A step from EMPTY either has one outcome whatever the registers hold, or stays in EMPTY and passes them on. -/
theorem step_withRegisters_of_empty {s : State} (h : s.phase = .empty) (root remain : U64) :
    step (s.withRegisters root remain) = step s ∨
    ∃ t, t.phase = .empty ∧ step s = .next t ∧
      step (s.withRegisters root remain) = .next (t.withRegisters root remain) := by
  rcases fetch_cases s with ⟨hp, hf⟩ | ⟨rest, hp, hf⟩ | ⟨w, rest, i, hp, hd, hf⟩ | ⟨w, rest, hp, hd, hf⟩
  · right
    have hf' : fetch (s.withRegisters root remain) = .idle := fetch_of_nil hp
    exact ⟨s, h, by simp only [step, hf, waitForHost], by simp only [step, hf', waitForHost]⟩
  · left
    have hf' : fetch (s.withRegisters root remain) = .reset ((s.withPort rest).withRegisters root remain) :=
      fetch_of_reset hp
    simp only [step, hf, hf', State.withRegisters_applyReset]
  · rw [step_of_command hp hd, step_of_command (s := s.withRegisters root remain) hp hd, State.withRegisters_withPort]
    rcases exec_withRegisters_of_empty (s := s.withPort rest) h i root remain with heq | ⟨r, he, he'⟩
    · exact .inl heq
    · exact .inr ⟨(s.withPort rest).addResponse r, h, he, he'⟩
  · left
    have hf' : fetch (s.withRegisters root remain) = .refused .reservedOp := fetch_of_reserved hp hd
    simp only [step, hf, hf']

/-- A run of at least one step depends on its first state through that step alone. -/
theorem run_succ_congr {s s' : State} (h : step s' = step s) (k : Nat) : run (k + 1) s' = run (k + 1) s := by
  cases hs : step s with
  | next t => rw [run_succ_of_next hs, run_succ_of_next (h.trans hs)]
  | fault f => cases f
  | refused r => rw [run_succ_of_refused hs, run_succ_of_refused (h.trans hs)]

@[simp] theorem SameForHost.refl (o : Host.Outcome State Fault Refusal) : SameForHost o o := by
  cases o with
  | next t => exact rfl
  | fault f => cases f
  | refused r => exact rfl

/-- The induction of the statement below, over the number of steps. -/
theorem run_withRegisters_of_empty (k : Nat) {s : State} (h : s.phase = .empty) (root remain : U64) :
    SameForHost (run k s) (run k (s.withRegisters root remain)) := by
  induction k generalizing s with
  | zero => exact rfl
  | succ k ih =>
    rcases step_withRegisters_of_empty h root remain with heq | ⟨t, ht, hs, hs'⟩
    · rw [run_succ_congr heq]
      exact SameForHost.refl _
    · rw [run_succ_of_next hs, run_succ_of_next hs']
      exact ih ht

/-- Settles O48. -/
theorem resetValuesAreUnobservable : Obligations.ResetValuesAreUnobservable :=
  fun k _ root remain h => run_withRegisters_of_empty k h root remain

end Sys2Proof.Machine
end

section
/-!
SUPPORT. The operands of a walk in the spec's shifts and masks, and their sums in natural numbers (rules R59, R77 and
R112).
-/

namespace Sys2Proof.Machine

/-! ## The machine's fields and the spec's masks -/

/-- The index of a walk level in natural numbers (rule R11). -/
theorem specIndex_toNat (va : U64) (k : Nat) : (specIndex va k).toNat = va.toNat / 2 ^ (48 - 9 * k) % 2 ^ 9 := by
  simp only [specIndex, BitVec.toNat_and, BitVec.toNat_ushiftRight, Nat.shiftRight_eq_div_pow]
  exact Nat.and_two_pow_sub_one_eq_mod _ 9

/-- An index times the 8 bytes of an entry does not wrap. -/
theorem specIndex_mul_eight_toNat (va : U64) (k : Nat) : (specIndex va k * 8).toNat = (specIndex va k).toNat * 8 := by
  have h := specIndex_toNat va k
  rw [BitVec.toNat_mul, show (8 : U64).toNat = 8 from rfl]
  omega

/-- The decomposer's field of a level is the spec's index. -/
theorem levelIndex_setWidth (va : U64) (k : Level) :
    (levelIndex (decomposeVA va) k).setWidth 64 = specIndex va k.number := by
  apply BitVec.eq_of_toNat_eq
  rw [specIndex_toNat]
  cases k <;>
    simp only [levelIndex, decomposeVA, Level.number, BitVec.toNat_setWidth, BitVec.extractLsb'_toNat,
      Nat.shiftRight_eq_div_pow] <;> omega

/-- The address a level looks up, as the spec writes it (rule R77). -/
theorem entryAddress_levelIndex (base va : U64) (k : Level) :
    entryAddress base (levelIndex (decomposeVA va) k) = base + specIndex va k.number * 8 := by
  rw [entryAddress, scaledIndex, levelIndex_setWidth]

/-- The two forms of `TBASE` in rule R112. -/
theorem tableBase_eq_specBase (d : U64) : tableBase d = specBase d := by
  have hmask : ∀ i < 64, (0x000FFFFFFFFFF000#64).getLsbD i = (decide (12 ≤ i) && decide (i < 52)) := by decide
  apply BitVec.eq_of_getLsbD_eq
  intro i hi
  rw [specBase, BitVec.getLsbD_and, hmask i hi]
  by_cases hlow : i < 12
  · simp [tableBase, hlow]
  · have hsub : 12 + (i - 12) = i := by omega
    have hframe : i - 12 < 40 ↔ i < 52 := by omega
    simp [tableBase, hlow, hsub, hframe, hi, not_lt.1 hlow, Bool.and_comm]

/-- Rule R114's presence test, and the spec's mask for it. -/
theorem presentBit_iff (d : U64) : presentBit d = true ↔ d &&& 1 = 1 := by
  rw [presentBit_eq, decide_eq_true_iff, ← BitVec.toNat_inj, BitVec.toNat_and]
  simp

/-- Bit 7, and the spec's mask for it. -/
theorem largePageBit_iff (d : U64) : largePageBit d = true ↔ d &&& 0x80 ≠ 0 := by
  have hmask : (0x80 : U64) = BitVec.twoPow 64 7 := by decide
  rw [largePageBit, hmask, BitVec.and_twoPow]
  cases d.getLsbD 7 <;> decide

/-! ## Sums with a table base -/

/-- A table base plus an offset of at most 30 bits does not wrap. -/
theorem tableBase_add_toNat (d : U64) {x : U64} (h : x.toNat < 2 ^ 30) :
    (tableBase d + x).toNat = (tableBase d).toNat + x.toNat := by
  have hbase := tableBase_toNat d
  rw [BitVec.toNat_add]
  omega

/-- A table base ends in 12 zero bits, so adding fewer is or-ing them in. -/
theorem tableBase_add_eq_or (d : U64) {x : U64} (h : x.toNat < 2 ^ 12) : tableBase d + x = tableBase d ||| x := by
  apply BitVec.eq_of_toNat_eq
  rw [tableBase_add_toNat d (by omega), BitVec.toNat_or, tableBase_toNat, Nat.mul_comm]
  exact Nat.two_pow_add_eq_or_of_lt h _

/-- The address a terminal descriptor maps, in natural numbers (rule R150). -/
theorem pageAddress_toNat (d va : U64) {shift : Nat} (h : shift ≤ 30) :
    (pageAddress d va shift).toNat = (tableBase d).toNat + va.toNat % 2 ^ shift := by
  have hoff := pageOffset_toNat va (shift := shift) (by omega)
  have hlt : va.toNat % 2 ^ shift < 2 ^ 30 :=
    (Nat.mod_lt _ (Nat.two_pow_pos _)).trans_le (Nat.pow_le_pow_right (by decide) h)
  rw [pageAddress, tableBase_add_toNat d (by omega), hoff]

end Sys2Proof.Machine
end

section
/-!
SUPPORT. The walk level by level: one function for the four levels of the model, and the three things a level can do
(rules R140 to R147).
-/

namespace Sys2Proof.Machine

/-! ## The order of the levels -/

/-- The level after a level; none after the leaf. -/
def Level.next : Level → Option Level
  | .one => some .two
  | .two => some .three
  | .three => some .four
  | .four => none

theorem Level.number_of_next {k k' : Level} (h : k.next = some k') : k'.number = k.number + 1 := by
  cases k <;> cases h <;> rfl

/-- Induction from the leaf up: what holds at a level when it holds at the next one holds at every level. -/
theorem Level.induction_from_leaf {P : Level → Prop} (level : ∀ k, (∀ k', k.next = some k' → P k') → P k)
    (k : Level) : P k := by
  have four : P .four := level .four (fun _ h => by cases h)
  have three : P .three := level .three (fun _ h => by cases h; exact four)
  have two : P .two := level .two (fun _ h => by cases h; exact three)
  have one : P .one := level .one (fun _ h => by cases h; exact two)
  cases k <;> assumption

/-! ## The walk from any level on -/

/-- The walk from the table at `base` on, entered at a level. -/
def walkFrom (m : Memory) (va : U64) : Level → U64 → Walk
  | .one => walkLevel1 m va
  | .two => walkLevel2 m va
  | .three => walkLevel3 m va
  | .four => walkLevel4 m va

theorem walk_eq_walkFrom (m : Memory) (root va : U64) : walk m root va = walkFrom m va .one root := rfl

/-- What becomes of a usable descriptor read at a level. -/
def afterEntry (m : Memory) (va : U64) (k : Level) (d : U64) : Walk :=
  match k.next with
  | none => terminal va d k
  | some k' => if (detectLargePage d k).large then terminal va d k else walkFrom m va k' (tableBase d)

theorem walkFrom_eq_visitLevel (m : Memory) (va : U64) (k : Level) (base : U64) :
    walkFrom m va k base = visitLevel m (decomposeVA va) k base (afterEntry m va k) := by
  cases k <;> rfl

theorem detectLargePage_two_large_eq (d : U64) : (detectLargePage d .two).large = largePageBit d := by
  cases h : largePageBit d <;> simp [detectLargePage, h]

theorem detectLargePage_three_large_eq (d : U64) : (detectLargePage d .three).large = largePageBit d := by
  cases h : largePageBit d <;> simp [detectLargePage, h]

/-- Rule R121: the descriptors that end the walk are those of the leaf and those the detector calls large. -/
theorem endsWalk_number_iff (k : Level) (d : U64) :
    EndsWalk k.number d ↔ k.next = none ∨ (detectLargePage d k).large = true := by
  cases k with
  | one => simp [EndsWalk, Level.number, Level.next]
  | two =>
    rw [detectLargePage_two_large_eq]
    simp [EndsWalk, Level.number, Level.next, largePageBit_iff]
  | three =>
    rw [detectLargePage_three_large_eq]
    simp [EndsWalk, Level.number, Level.next, largePageBit_iff]
  | four => simp [EndsWalk, Level.number, Level.next]

/-- The detector's shift where the walk ends. -/
theorem detectLargePage_shift_of_endsWalk {k : Level} {d : U64} (h : EndsWalk k.number d) :
    (detectLargePage d k).shift.toNat = specShift k.number := by
  rw [endsWalk_number_iff] at h
  cases k with
  | one => rfl
  | two =>
    have hbit : largePageBit d = true := by simpa [Level.next, detectLargePage_two_large_eq] using h
    rw [detectLargePage_two_large hbit]
    rfl
  | three =>
    have hbit : largePageBit d = true := by simpa [Level.next, detectLargePage_three_large_eq] using h
    rw [detectLargePage_three_large hbit]
    rfl
  | four => rfl

theorem afterEntry_of_endsWalk (m : Memory) (va : U64) {k : Level} {d : U64} (h : EndsWalk k.number d) :
    afterEntry m va k d = endWalk (.ok (pageAddress d va (specShift k.number))) := by
  rw [← detectLargePage_shift_of_endsWalk h]
  change _ = terminal va d k
  unfold afterEntry
  rcases (endsWalk_number_iff k d).1 h with hnext | hlarge
  · rw [hnext]
  · split
    · rfl
    · exact if_pos hlarge

theorem afterEntry_of_not_endsWalk (m : Memory) (va : U64) {k k' : Level} {d : U64} (h : ¬EndsWalk k.number d)
    (hnext : k.next = some k') : afterEntry m va k d = walkFrom m va k' (specBase d) := by
  have hsmall : ¬(detectLargePage d k).large = true := fun hlarge => h ((endsWalk_number_iff k d).2 (.inr hlarge))
  simp only [afterEntry, hnext, if_neg hsmall, tableBase_eq_specBase]

/-! ## The three things a level can do -/

/-- The spec's usable entry is the one the presence test lets through (rule R114). -/
theorem usableAt_iff (m : Memory) (a d : U64) : UsableAt m a d ↔ usable (memRead m a) = .ok d := by
  constructor
  · rintro ⟨hread, hmask⟩
    rw [hread, usable_present ((presentBit_iff d).2 hmask)]
  · intro h
    rcases hread : memRead m a with _ | c
    · rw [hread, usable_none] at h
      cases h
    · cases hp : presentBit c with
      | false =>
        rw [hread, usable_notPresent hp] at h
        cases h
      | true =>
        rw [hread, usable_present hp] at h
        cases h
        exact ⟨hread, (presentBit_iff d).1 hp⟩

/-- An unusable entry ends the walk with its Fault (rules R145 and R181). -/
theorem walkFrom_of_unusable {m : Memory} {va base : U64} {k : Level} {why : Unusable}
    (h : usable (memRead m (base + specIndex va k.number * 8)) = .error why) :
    walkFrom m va k base =
      { reads := [base + specIndex va k.number * 8], ending := .fault { level := k, why := why } } := by
  rw [← entryAddress_levelIndex] at h ⊢
  simp only [walkFrom_eq_visitLevel, visitLevel, h, endWalk]

/-- A usable entry is followed by what becomes of its descriptor. -/
theorem walkFrom_of_usable {m : Memory} {va base d : U64} {k : Level}
    (h : UsableAt m (base + specIndex va k.number * 8) d) :
    walkFrom m va k base =
      { reads := (base + specIndex va k.number * 8) :: (afterEntry m va k d).reads
        ending := (afterEntry m va k d).ending } := by
  rw [← entryAddress_levelIndex] at h ⊢
  rw [walkFrom_eq_visitLevel, visitLevel_present _ h.1 ((presentBit_iff d).2 h.2)]

/-- A terminal descriptor ends the walk with an address (rules R142 to R144). -/
theorem walkFrom_of_terminal {m : Memory} {va base d : U64} {k : Level}
    (h : UsableAt m (base + specIndex va k.number * 8) d) (hend : EndsWalk k.number d) :
    walkFrom m va k base =
      { reads := [base + specIndex va k.number * 8], ending := .ok (pageAddress d va (specShift k.number)) } := by
  rw [walkFrom_of_usable h, afterEntry_of_endsWalk m va hend, endWalk_reads, endWalk_ending]

/-- Any other usable descriptor leads to the next level's table (rules R141 to R143). -/
theorem walkFrom_of_next {m : Memory} {va base d : U64} {k k' : Level}
    (h : UsableAt m (base + specIndex va k.number * 8) d) (hend : ¬EndsWalk k.number d) (hnext : k.next = some k') :
    walkFrom m va k base =
      { reads := (base + specIndex va k.number * 8) :: (walkFrom m va k' (specBase d)).reads
        ending := (walkFrom m va k' (specBase d)).ending } := by
  rw [walkFrom_of_usable h, afterEntry_of_not_endsWalk m va hend hnext]

/-- Every level meets the hypotheses of one of the three. -/
theorem walkFrom_cases (m : Memory) (va : U64) (k : Level) (base : U64) :
    (∃ why, usable (memRead m (base + specIndex va k.number * 8)) = .error why) ∨
    (∃ d, UsableAt m (base + specIndex va k.number * 8) d ∧ EndsWalk k.number d) ∨
    (∃ d k', UsableAt m (base + specIndex va k.number * 8) d ∧ ¬EndsWalk k.number d ∧ k.next = some k') := by
  rcases hu : usable (memRead m (base + specIndex va k.number * 8)) with why | d
  · exact .inl ⟨why, rfl⟩
  have husable := (usableAt_iff _ _ d).2 hu
  by_cases hend : EndsWalk k.number d
  · exact .inr (.inl ⟨d, husable, hend⟩)
  · rcases hnext : k.next with _ | k'
    · exact absurd ((endsWalk_number_iff k d).2 (.inl hnext)) hend
    · exact .inr (.inr ⟨d, k', husable, hend, rfl⟩)

end Sys2Proof.Machine
end

section
/-!
SUPPORT. The lookups of a walk: each is led to by the one before, so they are the entries the spec's text reaches, and
the walk depends on no other cell (20_memory.md sections 2 and 4).
-/

namespace Sys2Proof.Machine

/-! ## The list of lookups -/

/-- There is a usable entry at one address only with one descriptor. -/
theorem UsableAt.unique {m : Memory} {a d d' : U64} (h : UsableAt m a d) (h' : UsableAt m a d') : d = d' :=
  Option.some.inj (h.1.symm.trans h'.1)

/-- The first lookup from a level on is at the address its index selects. -/
theorem walkFrom_reads_zero (m : Memory) (va : U64) (k : Level) (base : U64) :
    (walkFrom m va k base).reads[0]? = some (base + specIndex va k.number * 8) := by
  rw [walkFrom_eq_visitLevel, ← entryAddress_levelIndex]
  rfl

/-- There is a second one exactly where that entry is usable and does not end the walk. -/
theorem walkFrom_reads_one (m : Memory) (va : U64) (k : Level) (base a : U64) :
    (walkFrom m va k base).reads[1]? = some a ↔
      ∃ d, UsableAt m (base + specIndex va k.number * 8) d ∧ ¬EndsWalk k.number d ∧
        a = specBase d + specIndex va (k.number + 1) * 8 := by
  rcases walkFrom_cases m va k base with ⟨why, h⟩ | ⟨d, h, hend⟩ | ⟨d, k', h, hend, hnext⟩
  · rw [walkFrom_of_unusable h]
    refine iff_of_false (by simp) ?_
    rintro ⟨d, hd, _⟩
    rw [usableAt_iff, h] at hd
    cases hd
  · rw [walkFrom_of_terminal h hend]
    refine iff_of_false (by simp) ?_
    rintro ⟨d', hd, hcont, _⟩
    exact hcont (h.unique hd ▸ hend)
  · rw [walkFrom_of_next h hend hnext, List.getElem?_cons_succ, walkFrom_reads_zero, Level.number_of_next hnext,
      Option.some_inj]
    constructor
    · rintro rfl
      exact ⟨d, h, hend, rfl⟩
    · rintro ⟨d', hd, _, rfl⟩
      rw [h.unique hd]

/-- One lookup follows another exactly where that one found a usable descriptor that does not end the walk, at the
address this descriptor leads to. -/
theorem walkFrom_reads_succ (m : Memory) (va : U64) (n : Nat) (k : Level) (base a : U64) :
    (walkFrom m va k base).reads[n + 1]? = some a ↔
      ∃ a' d, (walkFrom m va k base).reads[n]? = some a' ∧ UsableAt m a' d ∧ ¬EndsWalk (k.number + n) d ∧
        a = specBase d + specIndex va (k.number + n + 1) * 8 := by
  induction n generalizing k base with
  | zero =>
    simp only [walkFrom_reads_zero, Option.some_inj, exists_and_left, exists_eq_left']
    exact walkFrom_reads_one m va k base a
  | succ n ih =>
    rcases walkFrom_cases m va k base with ⟨why, h⟩ | ⟨d, h, hend⟩ | ⟨d, k', h, hend, hnext⟩
    · simp [walkFrom_of_unusable h]
    · simp [walkFrom_of_terminal h hend]
    · have hnum : k.number + (n + 1) = k'.number + n := by rw [Level.number_of_next hnext]; omega
      simp only [walkFrom_of_next h hend hnext, List.getElem?_cons_succ, ih, hnum]

theorem walk_reads_zero (m : Memory) (root va : U64) :
    (walk m root va).reads[0]? = some (root + specIndex va 1 * 8) :=
  walkFrom_reads_zero m va .one root

theorem walk_reads_succ (m : Memory) (root va : U64) (n : Nat) (a : U64) :
    (walk m root va).reads[n + 1]? = some a ↔
      ∃ a' d, (walk m root va).reads[n]? = some a' ∧ UsableAt m a' d ∧ ¬EndsWalk (n + 1) d ∧
        a = specBase d + specIndex va (n + 2) * 8 := by
  have h := walkFrom_reads_succ m va n .one root a
  rwa [show Level.one.number + n = n + 1 from Nat.add_comm 1 n] at h

/-! ## The entries the spec's text reaches -/

theorem reaches_one_iff (m : Memory) (root va a : U64) :
    Reaches m root va 1 a ↔ a = root + specIndex va 1 * 8 := by
  constructor
  · rintro ⟨⟩
    rfl
  · rintro rfl
    exact .top

/-- Rules R142 to R144 in one: an entry of a later level is reached through a usable one that does not end the walk. -/
theorem reaches_succ_iff (m : Memory) (root va : U64) (n : Nat) (a : U64) :
    Reaches m root va (n + 2) a ↔
      ∃ a' d, Reaches m root va (n + 1) a' ∧ UsableAt m a' d ∧ ¬EndsWalk (n + 1) d ∧
        a = specBase d + specIndex va (n + 2) * 8 := by
  constructor
  · intro h
    cases h with
    | second at1 present => exact ⟨_, _, at1, present, by simp [EndsWalk], rfl⟩
    | third at2 present small => exact ⟨_, _, at2, present, by simpa [EndsWalk] using small, rfl⟩
    | fourth at3 present small => exact ⟨_, _, at3, present, by simpa [EndsWalk] using small, rfl⟩
  · rintro ⟨a', d, hreach, husable, hcont, rfl⟩
    cases hreach with
    | top => exact .second .top husable
    | second at1 present => exact .third (.second at1 present) husable (by simpa [EndsWalk] using hcont)
    | third at2 present small => exact .fourth (.third at2 present small) husable (by simpa [EndsWalk] using hcont)
    | fourth => exact absurd (.inl rfl) hcont

/-- The list of lookups is the list of the entries reached, in level order. -/
theorem walk_reads_iff_reaches (m : Memory) (root va : U64) (n : Nat) (a : U64) :
    (walk m root va).reads[n]? = some a ↔ Reaches m root va (n + 1) a := by
  induction n generalizing a with
  | zero => rw [walk_reads_zero, reaches_one_iff, Option.some_inj, eq_comm]
  | succ n ih => simp only [walk_reads_succ, reaches_succ_iff, ih]

/-! ## How many lookups there are -/

/-- Every descriptor of level 4 ends the walk, so there is no fifth lookup (rule R146). -/
theorem walk_reads_length_le_four (m : Memory) (root va : U64) : (walk m root va).reads.length ≤ 4 := by
  rw [← List.getElem?_eq_none_iff, Option.eq_none_iff_forall_ne_some]
  intro a ha
  obtain ⟨_, _, _, _, hend, _⟩ := (walk_reads_succ m root va 3 a).1 ha
  exact hend (.inl rfl)

/-- A Fault at a level is the walk's last lookup (rule R50). -/
theorem walkFrom_length_of_fault {m : Memory} {va base : U64} {k : Level} {c : FaultCause}
    (h : (walkFrom m va k base).ending = .fault c) :
    k.number + (walkFrom m va k base).reads.length = c.level.number + 1 := by
  induction k using Level.induction_from_leaf generalizing base with
  | level k ih =>
    rcases walkFrom_cases m va k base with ⟨why, hu⟩ | ⟨d, hu, hend⟩ | ⟨d, k', hu, hend, hnext⟩
    · rw [walkFrom_of_unusable hu] at h ⊢
      cases h
      rfl
    · rw [walkFrom_of_terminal hu hend] at h
      cases h
    · rw [walkFrom_of_next hu hend hnext] at h ⊢
      have hrest := ih k' hnext h
      rw [Level.number_of_next hnext] at hrest
      rw [List.length_cons]
      omega

/-- A descriptor that ends the walk is the last one looked up (rule R50). -/
theorem walk_length_of_endsWalk {m : Memory} {root va a d : U64} {k : Nat} (hreach : Reaches m root va k a)
    (husable : UsableAt m a d) (hend : EndsWalk k d) : (walk m root va).reads.length = k := by
  obtain ⟨n, rfl⟩ : ∃ n, k = n + 1 := by cases hreach <;> exact ⟨_, rfl⟩
  have hread := (walk_reads_iff_reaches m root va n a).2 hreach
  have hlast : (walk m root va).reads[n + 1]? = none := by
    rw [Option.eq_none_iff_forall_ne_some]
    intro b hb
    obtain ⟨a', d', hread', husable', hcont, _⟩ := (walk_reads_succ m root va n b).1 hb
    cases hread.symm.trans hread'
    cases husable.unique husable'
    exact hcont hend
  have hlt := (List.getElem?_eq_some_iff.1 hread).1
  have hle := List.getElem?_eq_none_iff.1 hlast
  omega

/-! ## The statements -/

/-- Settles O22. -/
theorem lookupsAreTheReachedEntriesInOrder : Obligations.LookupsAreTheReachedEntriesInOrder := by
  intro m root va
  refine ⟨?_, walk_reads_length_le_four m root va, walk_reads_iff_reaches m root va, fun c hc => ?_,
    fun _ _ _ => walk_length_of_endsWalk⟩
  · exact (List.getElem?_eq_some_iff.1 (walk_reads_zero m root va)).1
  · have h := walkFrom_length_of_fault (k := .one) hc
    rw [← walk_eq_walkFrom, Level.number] at h
    omega

/-- The induction of O23, from the leaf up. -/
theorem walkFrom_congr {m m' : Memory} {va base : U64} {k : Level}
    (h : ∀ a ∈ (walkFrom m va k base).reads, memRead m' a = memRead m a) :
    walkFrom m' va k base = walkFrom m va k base := by
  induction k using Level.induction_from_leaf generalizing base with
  | level k ih =>
    have hfirst := h _ (List.mem_of_getElem? (walkFrom_reads_zero m va k base))
    rcases walkFrom_cases m va k base with ⟨why, hu⟩ | ⟨d, hu, hend⟩ | ⟨d, k', hu, hend, hnext⟩
    · rw [walkFrom_of_unusable hu, walkFrom_of_unusable (hfirst ▸ hu)]
    · have hu' := And.intro (hfirst.trans hu.1) hu.2
      rw [walkFrom_of_terminal hu hend, walkFrom_of_terminal hu' hend]
    · have hu' := And.intro (hfirst.trans hu.1) hu.2
      rw [walkFrom_of_next hu hend hnext] at h ⊢
      rw [walkFrom_of_next hu' hend hnext, ih k' hnext (fun a ha => h a (List.mem_cons_of_mem _ ha))]

/-- Settles O23. -/
theorem walkDependsOnLookedUpCellsOnly : Obligations.WalkDependsOnLookedUpCellsOnly :=
  fun _ _ _ _ h => walkFrom_congr (k := .one) h

/-- The address of a later entry in natural numbers: no wrap (rule R59). -/
theorem specBase_add_specIndex_toNat (d va : U64) (k : Nat) :
    (specBase d + specIndex va k * 8).toNat = (tableBase d).toNat + (specIndex va k).toNat * 8 := by
  have hix := specIndex_toNat va k
  have hscaled := specIndex_mul_eight_toNat va k
  rw [← tableBase_eq_specBase, tableBase_add_toNat d (by omega), hscaled]

/-- Settles O32. -/
theorem onlyTheFirstLookupUsesRoot : Obligations.OnlyTheFirstLookupUsesRoot := by
  intro m root va
  refine ⟨fun a ha => ?_, fun n a ha => ?_⟩
  · rw [walk_reads_zero] at ha
    cases ha
    rw [BitVec.toNat_add, specIndex_mul_eight_toNat, specIndex_toNat]
  · obtain ⟨a', d, hread, husable, _, rfl⟩ := (walk_reads_succ m root va n a).1 ha
    have haddr := specBase_add_specIndex_toNat d va (n + 2)
    have hbase := tableBase_toNat d
    have hix := specIndex_toNat va (n + 2)
    exact ⟨⟨a', d, hread, husable, rfl⟩, by omega, by omega⟩

end Sys2Proof.Machine
end

section
/-!
SUPPORT. The bounds of rule R59.
-/

namespace Sys2Proof.Machine

/-- An entry address at a level after the first, in natural numbers (rules R59 and R77). -/
theorem entryAddress_tableBase_toNat (d : U64) (ix : BitVec 9) :
    (entryAddress (tableBase d) ix).toNat = (tableBase d).toNat + ix.toNat * 8 := by
  have hix := ix.isLt
  have hscaled := scaledIndex_toNat ix
  rw [entryAddress, tableBase_add_toNat d (by omega), hscaled]

/-- The shift of a walk's end is at most that of a 1 GB page. -/
theorem specShift_le (k : Nat) : specShift k ≤ 30 := by
  unfold specShift
  split
  · exact le_rfl
  · split <;> decide

/-- A result is the page address of some terminal descriptor (rule R150). -/
theorem walkFrom_ok {m : Memory} {va base pa : U64} {k : Level} (h : (walkFrom m va k base).ending = .ok pa) :
    ∃ d n, pa = pageAddress d va (specShift n) := by
  induction k using Level.induction_from_leaf generalizing base with
  | level k ih =>
    rcases walkFrom_cases m va k base with ⟨why, hu⟩ | ⟨d, hu, hend⟩ | ⟨d, k', hu, hend, hnext⟩
    · rw [walkFrom_of_unusable hu] at h
      cases h
    · rw [walkFrom_of_terminal hu hend] at h
      cases h
      exact ⟨d, k.number, rfl⟩
    · rw [walkFrom_of_next hu hend hnext] at h
      exact ih k' hnext h

theorem pageAddress_specShift_lt (d va : U64) (k : Nat) : (pageAddress d va (specShift k)).toNat < 2 ^ 52 + 2 ^ 30 := by
  have hbase := tableBase_toNat d
  have hoff : va.toNat % 2 ^ specShift k < 2 ^ 30 :=
    (Nat.mod_lt _ (Nat.two_pow_pos _)).trans_le (Nat.pow_le_pow_right (by decide) (specShift_le k))
  rw [pageAddress_toNat d va (specShift_le k)]
  omega

/-- Settles O31. The two large-page sums that are no bitwise or have a frame with a bit of the offset set. -/
theorem addressesStayWithinBounds : Obligations.AddressesStayWithinBounds := by
  refine ⟨fun d ix => ?_, fun d va => ?_, ⟨0x1000, 0x1000, by decide⟩, ⟨0x1000, 0x1000, by decide⟩,
    fun m root va pa h => ?_⟩
  · have hbase := tableBase_toNat d
    have hix := ix.isLt
    have hscaled := scaledIndex_toNat ix
    have haddr := entryAddress_tableBase_toNat d ix
    exact ⟨by omega, haddr, by omega, tableBase_add_eq_or d (by omega)⟩
  · have hbase := tableBase_toNat d
    have hoff := pageOffset_toNat va (shift := 12) (by decide)
    have h4K := pageAddress_toNat d va (shift := 12) (by decide)
    have h1G := pageAddress_toNat d va (shift := 30) (by decide)
    have h2M := pageAddress_toNat d va (shift := 21) (by decide)
    exact ⟨tableBase_add_eq_or d (by omega), by omega, h1G, by omega, h2M, by omega⟩
  · obtain ⟨d, n, rfl⟩ := walkFrom_ok (k := .one) h
    exact pageAddress_specShift_lt d va n

end Sys2Proof.Machine
end

section
/-!
SUPPORT. A snapshot in canonical form is fixed by what it reads as (rule R41 and log entry 7).
-/

namespace Sys2Proof.Machine

/-- A listed key is not below the bound. -/
theorem Memory.le_of_cellAt {lo k : Nat} {v : U64} {m : Memory} (hm : Memory.risingFrom lo m = true)
    (h : cellAt k m = some v) : lo ≤ k := by
  by_contra hlt
  rw [cellAt_below (not_le.1 hlt) hm] at h
  cases h

@[simp] theorem cellAt_cons_self (k : Nat) (v : U64) (rest : Memory) : cellAt k ((k, v) :: rest) = some v := if_pos rfl

theorem cellAt_cons_other {j k : Nat} (h : j ≠ k) (v : U64) (rest : Memory) :
    cellAt k ((j, v) :: rest) = cellAt k rest := if_neg h

/-- Two rising lists that read alike at every 64-bit key are equal: each one's first key is listed in the other, so they
begin with the same cell, and their rests read alike. -/
theorem Memory.eq_of_cellAt_eq {lo lo' : Nat} {m m' : Memory} (hm : Memory.risingFrom lo m = true)
    (hm' : Memory.risingFrom lo' m' = true) (h : ∀ k < 2 ^ 64, cellAt k m = cellAt k m') : m = m' := by
  induction m generalizing lo lo' m' with
  | nil =>
    cases m' with
    | nil => rfl
    | cons c' rest' =>
      obtain ⟨j', v'⟩ := c'
      have hj' := ((Memory.risingFrom_cons ..).1 hm').2.1
      simpa using h j' hj'
  | cons c rest ih =>
    obtain ⟨j, v⟩ := c
    obtain ⟨_, hj, hrest⟩ := (Memory.risingFrom_cons ..).1 hm
    have hfirst := h j hj
    rw [cellAt_cons_self] at hfirst
    cases m' with
    | nil => cases hfirst
    | cons c' rest' =>
      obtain ⟨j', v'⟩ := c'
      obtain ⟨_, hj', hrest'⟩ := (Memory.risingFrom_cons ..).1 hm'
      have hfirst' := h j' hj'
      rw [cellAt_cons_self] at hfirst'
      have hle : j ≤ j' := Memory.le_of_cellAt ((Memory.risingFrom_cons ..).2 ⟨le_rfl, hj, hrest⟩) hfirst'
      have hle' : j' ≤ j := Memory.le_of_cellAt ((Memory.risingFrom_cons ..).2 ⟨le_rfl, hj', hrest'⟩) hfirst.symm
      obtain rfl : j = j' := le_antisymm hle hle'
      rw [cellAt_cons_self] at hfirst
      cases hfirst
      congr 1
      refine ih hrest hrest' (fun k hk => ?_)
      by_cases hkj : j = k
      · subst hkj
        rw [cellAt_below (Nat.lt_succ_self _) hrest, cellAt_below (Nat.lt_succ_self _) hrest']
      · have hread := h k hk
        rwa [cellAt_cons_other hkj, cellAt_cons_other hkj] at hread

/-- Settles O41. -/
theorem canonicalSnapshotsThatReadAlikeAreEqual : Obligations.CanonicalSnapshotsThatReadAlikeAreEqual := by
  intro m m' hm hm' h
  refine Memory.eq_of_cellAt_eq hm hm' (fun k hk => ?_)
  have hread := h (BitVec.ofNat 64 k)
  rwa [memRead, memRead, BitVec.toNat_ofNat, Nat.mod_eq_of_lt hk] at hread

end Sys2Proof.Machine
end

section
/-!
SUPPORT. Decoding and encoding undo each other, the reserved codes, and the word that the host places on the port (rules
R70, R71, R73 and R80).
-/

namespace Sys2Proof

/-! ## Decoding and encoding -/

/-- Decoding gives every operation back from its word. -/
@[simp] theorem decode_encode (i : Instr) : decode (encode i) = .ok i := by
  cases i <;> simp [encode, decode]

/-- The operation code above the two operands is the word shifted down by them (rule R71). -/
theorem opField_toNat_eq_ushiftRight (w : CmdWord) : (opField w).toNat = (w >>> 128).toNat := by
  rw [opField_toNat, BitVec.toNat_ushiftRight, Nat.shiftRight_eq_div_pow]

/-- A word whose code is known is put together from that code and its operands. -/
theorem commandWord_of_opField {w : CmdWord} {op : BitVec 4} (h : (opField w).toNat = op.toNat) :
    commandWord op (aField w) (bField w) = w := by
  rw [← BitVec.eq_of_toNat_eq h, commandWord_fields]

/-- A word that decodes is the word of what it decodes to: each row of rule R70 has one code. -/
theorem encode_of_decode {w : CmdWord} {i : Instr} (h : decode w = .ok i) : encode i = w := by
  unfold decode at h
  split at h
  case h_8 => cases h
  all_goals
    next hop =>
      cases h
      exact commandWord_of_opField hop

/-- Rule R73: the words that are no operation. -/
theorem decode_reservedOp_iff (w : CmdWord) :
    decode w = .error .reservedOp ↔ (opField w).toNat = 0 ∨ 8 ≤ (opField w).toNat := by
  unfold decode
  split
  case h_8 =>
    simp only [imp_false, true_iff] at *
    omega
  all_goals
    next hop => simp [hop]

/-- Settles O49. -/
theorem decodeAndEncodeAgree : Obligations.DecodeAndEncodeAgree := by
  refine ⟨decode_encode, fun _ _ => encode_of_decode, fun w => ?_⟩
  rw [decode_reservedOp_iff, opField_toNat_eq_ushiftRight]

/-- Settles O50: fixed words, evaluated. -/
theorem sampleWordsDecode : Obligations.SampleWordsDecode := by
  unfold Obligations.SampleWordsDecode
  decide

/-! ## A word placed on the port -/

/-- A command word's number is read back as the word at every width of at least 132 bits (log entry 9). -/
theorem portWord_toNat {nbits : Nat} (h : 132 ≤ nbits) (w : CmdWord) : portWord nbits w.toNat = some w := by
  have hmod : w.toNat % 2 ^ nbits = w.toNat :=
    Nat.mod_eq_of_lt (w.isLt.trans_le (Nat.pow_le_pow_right (by decide) h))
  rw [portWord, hmod, if_pos w.isLt, BitVec.ofNat_toNat, BitVec.setWidth_eq]

theorem decodeTableWord_encode {nbits : Nat} (h : 132 ≤ nbits) (i : Instr) :
    decodeTableWord nbits (encode i).toNat = some i := by
  simp only [decodeTableWord, portWord_toNat h, decode_encode]

end Sys2Proof

namespace Sys2Proof.Machine

/-- An operation's own word at the head of the port runs the operation. -/
theorem step_of_encode {s : State} {i : Instr} {rest : List HostEvent} (h : s.port = .command (encode i) :: rest) :
    step s = exec i (s.withPort rest) :=
  step_of_command h (decode_encode i)

theorem commandsOf_append (is js : List Instr) : commandsOf (is ++ js) = commandsOf is ++ commandsOf js :=
  List.map_append

/-- The first of a sequence of operations on the port runs, and leaves the others there. -/
theorem step_of_commandsOf_cons {s : State} {i : Instr} {is : List Instr} {rest : List HostEvent}
    (h : s.port = commandsOf (i :: is) ++ rest) : step s = exec i (s.withPort (commandsOf is ++ rest)) :=
  step_of_encode h

theorem withFetchWord_toNat {nbits : Nat} (h : 132 ≤ nbits) (s : State) (w : CmdWord) :
    s.withFetchWord nbits w.toNat = s.withPort (.command w :: s.port) := by
  simp only [State.withFetchWord, issueTableWord, portWord_toNat h, issue]

/-- Settles O5. -/
theorem placedWordRunsNext : Obligations.PlacedWordRunsNext := by
  intro s i nbits h
  refine ⟨decodeTableWord_encode h i, ?_⟩
  rw [withFetchWord_toNat h, step_of_encode (State.withPort_port ..), State.withPort_withPort, State.withPort_self]

/-- Settles O14: no arm of the four operations looks at the ignored operand. -/
theorem ignoredOperandHasNoEffect : Obligations.IgnoredOperandHasNoEffect :=
  fun _ _ _ _ => ⟨rfl, rfl, rfl, rfl⟩

end Sys2Proof.Machine
end

section
/-!
SUPPORT. The host's text of a dataset is taken apart again: lines into tokens, tokens into numbers, numbers into the
dataset; and the output lines of results (rules R84 to R86).
-/

namespace Sys2Proof.Machine

/-! ## Numbers into a dataset -/

/-- The tokens of the cells, and what stands after them. -/
theorem takeCells_flatMap (cells : List (U64 × U64)) (rest : List U64) :
    takeCells cells.length (cells.flatMap (fun c => [c.1, c.2]) ++ rest) = some (cells, rest) := by
  induction cells with
  | nil => rfl
  | cons c cells ih =>
    simp only [List.length_cons, List.flatMap_cons, List.cons_append, List.nil_append, takeCells, ih]

/-- A count below 2^64 is sent unchanged. -/
theorem toNat_ofNat_length {α : Type} {l : List α} (h : l.length < 2 ^ 64) :
    (BitVec.ofNat 64 l.length).toNat = l.length := by
  rw [BitVec.toNat_ofNat, Nat.mod_eq_of_lt h]

/-- Settles O51. -/
theorem datasetTokensParseBack : Obligations.DatasetTokensParseBack := by
  intro d hcells hqueries
  simp only [Dataset.tokens, parseTokens, toNat_ofNat_length hcells, toNat_ofNat_length hqueries, takeCells_flatMap,
    if_true]

/-! ## Lines into numbers -/

/-- A line of the text splits into its numerals. -/
theorem splitTokens_textLine (ns : List U64) (rest : List Char) :
    splitTokens [] (textLine ns ++ rest) = ns.map decimalToken ++ splitTokens [] rest := by
  have hspace : ' '.isWhitespace = true := by decide
  have hfeed : '\n'.isWhitespace = true := by decide
  induction ns using textLine.induct with
  | case1 => simp [textLine, splitTokens, hfeed]
  | case2 n => simp [textLine, splitTokens_decimalToken n hfeed]
  | case3 n m ns ih =>
    simp only [textLine, List.append_assoc, List.cons_append, splitTokens_decimalToken n hspace, ih, List.map_cons]

/-- A block of lines, one for each entry of a list, splits into the numerals of all of them. -/
theorem splitTokens_flatMap_textLine {α : Type} (numbers : α → List U64) (l : List α) (rest : List Char) :
    splitTokens [] (l.flatMap (fun x => textLine (numbers x)) ++ rest) =
      (l.flatMap numbers).map decimalToken ++ splitTokens [] rest := by
  induction l with
  | nil => rfl
  | cons x l ih => simp only [List.flatMap_cons, List.append_assoc, splitTokens_textLine, ih, List.map_append]

/-- The text of a dataset splits into the numerals of its token stream. -/
theorem splitTokens_text (d : Dataset) : splitTokens [] d.text = d.tokens.map decimalToken := by
  have hqueries := splitTokens_flatMap_textLine (fun va => [va]) d.queries []
  rw [List.append_nil, List.flatMap_singleton', splitTokens, if_pos List.isEmpty_nil, List.append_nil] at hqueries
  rw [Dataset.text, splitTokens_textLine, splitTokens_flatMap_textLine (fun c : U64 × U64 => [c.1, c.2]), hqueries,
    Dataset.tokens, ← List.map_append, ← List.map_append]
  rfl

/-- Numerals are read back, all of them. -/
@[simp] theorem readNumbers_map_decimalToken (ns : List U64) : readNumbers (ns.map decimalToken) = some ns := by
  induction ns with
  | nil => rfl
  | cons n ns ih => simp only [List.map_cons, readNumbers, readNumber_decimalToken, ih]

/-- Settles O53: the text splits into the numerals of the tokens, which parse back. -/
theorem datasetTextReadsBack : Obligations.DatasetTextReadsBack := by
  intro d hcells hqueries
  simp only [readDataset, splitTokens_text, readNumbers_map_decimalToken, datasetTokensParseBack d hcells hqueries]

/-! ## Output lines -/

/-- A response that is the result of a translation (rule R8's `Result`). -/
def Response.IsResult (r : Response) : Prop := r = .fault ∨ ∃ pa, r = .ok pa

/-- The text of a result: the decimal address, else `fault` (rule R86). -/
def Response.resultText : Response → String
  | .ok pa => toString pa.toNat
  | _ => "fault"

theorem Response.line_of_isResult {r : Response} (h : r.IsResult) : r.line = some r.resultText := by
  rcases h with rfl | ⟨pa, rfl⟩ <;> rfl

/-- Every result has its line, at its place. -/
theorem outputLines_of_isResult {rs : List Response} (h : ∀ r ∈ rs, r.IsResult) :
    outputLines rs = rs.map Response.resultText := by
  induction rs with
  | nil => rfl
  | cons r rs ih =>
    have hr := Response.line_of_isResult (h r List.mem_cons_self)
    have hrs := ih (fun r' hr' => h r' (List.mem_cons_of_mem r hr'))
    rw [outputLines] at hrs ⊢
    rw [List.filterMap_cons_some hr, hrs, List.map_cons]

/-- Settles O52. -/
theorem outputHasOneLinePerQuery : Obligations.OutputHasOneLinePerQuery := by
  intro rs h
  rw [outputLines_of_isResult h]
  refine ⟨List.length_map .., fun n => ⟨fun pa hn => ?_, fun hn => ?_⟩⟩
  · rw [List.getElem?_map, hn]
    rfl
  · rw [List.getElem?_map, hn]
    rfl

end Sys2Proof.Machine
end

section
/-!
SUPPORT. What a walk can tell apart: of a lookup's result its visible part, of the address bits 47:0 (rules R81, R102,
R113, R114 and R145).
-/

namespace Sys2Proof.Machine

/-! ## The low 48 bits of an address -/

/-- The mask that leaves bits 47:0, in natural numbers. -/
theorem and_low48_toNat (va : U64) : (va &&& 0x0000FFFFFFFFFFFF).toNat = va.toNat % 2 ^ 48 := by
  rw [BitVec.toNat_and]
  exact Nat.and_two_pow_sub_one_eq_mod _ 48

/-- The index of every level lies in bits 47:0. -/
theorem specIndex_number_congr {va va' : U64} (h : va.toNat % 2 ^ 48 = va'.toNat % 2 ^ 48) (k : Level) :
    specIndex va k.number = specIndex va' k.number := by
  apply BitVec.eq_of_toNat_eq
  rw [specIndex_toNat, specIndex_toNat]
  cases k <;> simp only [Level.number] <;> omega

/-- So does every offset. -/
theorem pageOffset_congr {va va' : U64} (h : va.toNat % 2 ^ 48 = va'.toNat % 2 ^ 48) {shift : Nat} (hs : shift ≤ 30) :
    pageOffset va shift = pageOffset va' shift := by
  have hdvd : 2 ^ shift ∣ 2 ^ 48 := Nat.pow_dvd_pow 2 (by omega)
  apply BitVec.eq_of_toNat_eq
  rw [pageOffset_toNat va (by omega), pageOffset_toNat va' (by omega), ← Nat.mod_mod_of_dvd va.toNat hdvd, h,
    Nat.mod_mod_of_dvd va'.toNat hdvd]

/-! ## The visible part of a lookup's result -/

/-- Two descriptors with the same frame and the same bit 7. -/
def SameVisibleBits (d d' : U64) : Prop := d &&& 0x000FFFFFFFFFF080 = d' &&& 0x000FFFFFFFFFF080

/-- A mask within the visible bits leaves the same of both. -/
theorem SameVisibleBits.and_eq {d d' : U64} (h : SameVisibleBits d d') {mask : U64}
    (hmask : 0x000FFFFFFFFFF080 &&& mask = mask) : d &&& mask = d' &&& mask := by
  rw [← hmask, ← BitVec.and_assoc, h, BitVec.and_assoc]

theorem SameVisibleBits.specBase_eq {d d' : U64} (h : SameVisibleBits d d') : specBase d = specBase d' :=
  h.and_eq (by decide)

theorem SameVisibleBits.endsWalk_iff {d d' : U64} (h : SameVisibleBits d d') (k : Nat) :
    EndsWalk k d ↔ EndsWalk k d' := by
  have hbit : d &&& 0x80 = d' &&& 0x80 := h.and_eq (by decide)
  rw [EndsWalk, EndsWalk, hbit]

theorem presentBit_eq_false_iff (d : U64) : presentBit d = false ↔ d &&& 1 = 0 := by
  rw [presentBit_eq, decide_eq_false_iff_not, ← BitVec.toNat_inj, BitVec.toNat_and]
  simp

/-- Nothing is seen of an entry that the presence test stops at. -/
theorem visible_of_usable_error {c : Option U64} {why : Unusable} (h : usable c = .error why) : visible c = none := by
  rcases c with _ | d
  · rfl
  · cases hp : presentBit d with
    | false => exact if_pos ((presentBit_eq_false_iff d).1 hp)
    | true =>
      rw [usable_present hp] at h
      cases h

/-- Of a usable entry its descriptor's visible bits are seen. -/
theorem visible_of_usableAt {m : Memory} {a d : U64} (h : UsableAt m a d) :
    visible (memRead m a) = some (d &&& 0x000FFFFFFFFFF080) := by
  have hpresent : ¬d &&& 1 = 0 := by
    rw [← presentBit_eq_false_iff, (presentBit_iff d).2 h.2]
    decide
  rw [h.1]
  exact if_neg hpresent

/-- Two lookups that show the same either both stop the walk, or give descriptors with the same visible bits. -/
theorem lookup_cases_of_visible_eq {m m' : Memory} {a : U64} (h : visible (memRead m a) = visible (memRead m' a)) :
    (∃ why why', usable (memRead m a) = .error why ∧ usable (memRead m' a) = .error why') ∨
    (∃ d d', UsableAt m a d ∧ UsableAt m' a d' ∧ SameVisibleBits d d') := by
  rcases hu : usable (memRead m a) with why | d <;> rcases hu' : usable (memRead m' a) with why' | d'
  · exact .inl ⟨why, why', rfl, rfl⟩
  · rw [visible_of_usable_error hu, visible_of_usableAt ((usableAt_iff ..).2 hu')] at h
    cases h
  · rw [visible_of_usable_error hu', visible_of_usableAt ((usableAt_iff ..).2 hu)] at h
    cases h
  · have ha := (usableAt_iff ..).2 hu
    have ha' := (usableAt_iff ..).2 hu'
    rw [visible_of_usableAt ha, visible_of_usableAt ha'] at h
    exact .inr ⟨d, d', ha, ha', Option.some.inj h⟩

/-! ## The response of a walk -/

/-- The induction of O24, from the leaf up: at each level both walks look up the same address and fault there, end there
with the same address, or go on to the same table. -/
theorem walkFrom_response_congr {m m' : Memory} {va va' : U64}
    (hseen : ∀ a, visible (memRead m a) = visible (memRead m' a)) (hva : va.toNat % 2 ^ 48 = va'.toNat % 2 ^ 48)
    (k : Level) (base : U64) :
    (walkFrom m va k base).ending.response = (walkFrom m' va' k base).ending.response := by
  induction k using Level.induction_from_leaf generalizing base with
  | level k ih =>
    have hix := specIndex_number_congr hva k
    rcases lookup_cases_of_visible_eq (hseen (base + specIndex va k.number * 8)) with
      ⟨why, why', hu, hu'⟩ | ⟨d, d', hu, hu', hbits⟩
    · rw [walkFrom_of_unusable hu, walkFrom_of_unusable (hix ▸ hu')]
      rfl
    · rw [hix] at hu'
      by_cases hend : EndsWalk k.number d
      · rw [walkFrom_of_terminal hu hend, walkFrom_of_terminal hu' ((hbits.endsWalk_iff _).1 hend), pageAddress,
          pageAddress, tableBase_eq_specBase, tableBase_eq_specBase, hbits.specBase_eq,
          pageOffset_congr hva (specShift_le k.number)]
      · rcases hnext : k.next with _ | k'
        · exact absurd ((endsWalk_number_iff k d).2 (.inl hnext)) hend
        · have hend' := mt (hbits.endsWalk_iff _).2 hend
          rw [walkFrom_of_next hu hend hnext, walkFrom_of_next hu' hend' hnext, hbits.specBase_eq]
          exact ih k' hnext _

/-- Settles O24. -/
theorem ignoredBitsNeverMatter : Obligations.IgnoredBitsNeverMatter := by
  intro s s' va va' b b' hready hready' hroot hseen hva
  have hlow : va.toNat % 2 ^ 48 = va'.toNat % 2 ^ 48 := by rw [← and_low48_toNat, hva, and_low48_toNat]
  have hresp : (walk s.snap s.root va).ending.response = (walk s'.snap s'.root va').ending.response :=
    hroot ▸ walkFrom_response_congr hseen hlow .one s.root
  refine ⟨(walk s.snap s.root va).ending.response, exec_xlate_of_ready hready va b, ?_⟩
  rw [hresp]
  exact exec_xlate_of_ready hready' va' b'

end Sys2Proof.Machine
end

section
/-!
SUPPORT. The walk gives the response of rule R140's loop.
-/

namespace Sys2Proof.Machine

/-- The walk levels from a level on, in the order of rule R140's loop. -/
def Level.numbersFrom : Level → List Nat
  | .one => [1, 2, 3, 4]
  | .two => [2, 3, 4]
  | .three => [3, 4]
  | .four => [4]

theorem Level.numbersFrom_eq_cons (k : Level) : ∃ rest, k.numbersFrom = k.number :: rest := by
  cases k <;> exact ⟨_, rfl⟩

theorem Level.numbersFrom_of_next {k k' : Level} (h : k.next = some k') :
    k.numbersFrom = k.number :: k'.numbersFrom := by
  cases k <;> cases h <;> rfl

/-- An offset as a mask (rule R103). -/
theorem pageOffset_eq_and (va : U64) {shift : Nat} (h : shift < 64) :
    pageOffset va shift = va &&& BitVec.ofNat 64 (2 ^ shift - 1) := by
  have hlt : 2 ^ shift < 2 ^ 64 := Nat.pow_lt_pow_right (by decide) h
  have hmask : (BitVec.ofNat 64 (2 ^ shift - 1)).toNat = 2 ^ shift - 1 :=
    Nat.mod_eq_of_lt ((Nat.sub_le ..).trans_lt hlt)
  apply BitVec.eq_of_toNat_eq
  rw [pageOffset_toNat va h.le, BitVec.toNat_and, hmask, Nat.and_two_pow_sub_one_eq_mod]

/-! ## The loop's three branches -/

/-- An unusable entry ends the loop with a Fault. -/
theorem specLoop_of_unusable {m : Memory} {va base : U64} {n : Nat} {why : Unusable}
    (h : usable (memRead m (base + specIndex va n * 8)) = .error why) (rest : List Nat) :
    specLoop (memRead m) va (n :: rest) base = .fault := by
  rcases hread : memRead m (base + specIndex va n * 8) with _ | d
  · simp only [specLoop, hread]
  · cases hp : presentBit d with
    | false => simp only [specLoop, hread, (presentBit_eq_false_iff d).1 hp, if_true]
    | true =>
      rw [hread, usable_present hp] at h
      cases h

/-- What a round of the loop does with a usable descriptor. -/
theorem specLoop_of_usable {m : Memory} {va base d : U64} {n : Nat} (h : UsableAt m (base + specIndex va n * 8) d)
    (rest : List Nat) :
    specLoop (memRead m) va (n :: rest) base =
      if n = 2 ∧ d &&& 0x80 ≠ 0 then .ok (specBase d + (va &&& 0x3FFFFFFF))
      else if n = 3 ∧ d &&& 0x80 ≠ 0 then .ok (specBase d + (va &&& 0x1FFFFF))
      else if n = 4 then .ok (specBase d + (va &&& 0xFFF))
      else specLoop (memRead m) va rest (specBase d) := by
  have hpresent : ¬d &&& 1 = 0 := by
    rw [h.2]
    decide
  rw [specLoop, h.1]
  exact if_neg hpresent

/-- A terminal descriptor ends the loop with its address. -/
theorem specLoop_of_endsWalk {m : Memory} {va base d : U64} {n : Nat} (h : UsableAt m (base + specIndex va n * 8) d)
    (hend : EndsWalk n d) (rest : List Nat) :
    specLoop (memRead m) va (n :: rest) base = .ok (pageAddress d va (specShift n)) := by
  rw [specLoop_of_usable h, pageAddress, tableBase_eq_specBase,
    pageOffset_eq_and va ((specShift_le n).trans_lt (by decide))]
  rcases hend with rfl | ⟨rfl | rfl, hbit⟩
  · rfl
  · rw [if_pos ⟨rfl, hbit⟩]
    rfl
  · rw [if_neg (by simp), if_pos ⟨rfl, hbit⟩]
    rfl

/-- Any other usable descriptor leads to the next round. -/
theorem specLoop_of_not_endsWalk {m : Memory} {va base d : U64} {n : Nat}
    (h : UsableAt m (base + specIndex va n * 8) d) (hend : ¬EndsWalk n d) (rest : List Nat) :
    specLoop (memRead m) va (n :: rest) base = specLoop (memRead m) va rest (specBase d) := by
  simp only [EndsWalk, not_or, not_and] at hend
  obtain ⟨hleaf, hlarge⟩ := hend
  rw [specLoop_of_usable h, if_neg (fun ⟨hn, hbit⟩ => hlarge (.inl hn) hbit),
    if_neg (fun ⟨hn, hbit⟩ => hlarge (.inr hn) hbit), if_neg hleaf]

/-! ## The walk and the loop -/

theorem walkFrom_response_eq_specLoop (m : Memory) (va : U64) (k : Level) (base : U64) :
    (walkFrom m va k base).ending.response = specLoop (memRead m) va k.numbersFrom base := by
  induction k using Level.induction_from_leaf generalizing base with
  | level k ih =>
    obtain ⟨rest, hrest⟩ := k.numbersFrom_eq_cons
    rcases walkFrom_cases m va k base with ⟨why, hu⟩ | ⟨d, hu, hend⟩ | ⟨d, k', hu, hend, hnext⟩
    · rw [walkFrom_of_unusable hu, hrest, specLoop_of_unusable hu]
      rfl
    · rw [walkFrom_of_terminal hu hend, hrest, specLoop_of_endsWalk hu hend]
      rfl
    · rw [walkFrom_of_next hu hend hnext, Level.numbersFrom_of_next hnext, specLoop_of_not_endsWalk hu hend]
      exact ih k' hnext _

/-- The response of `XLATE` is the one the rule's loop computes (rule R140). -/
theorem walk_response_eq_specTranslate (m : Memory) (root va : U64) :
    (walk m root va).ending.response = specTranslate (memRead m) root va :=
  walkFrom_response_eq_specLoop m va .one root

end Sys2Proof.Machine
end

section
/-!
SUPPORT. Loading cells one after another: the room that the keys to come need, and the snapshot after the last write
(rules R132, R133, R136 and R213).
-/

namespace Sys2Proof.Machine

/-! ## The room that keys need -/

/-- The distinct keys of a list that a snapshot does not hold yet. -/
def newKeys (m : Memory) (keys : List U64) : List U64 := keys.dedup.filter (fun p => memRead m p = none)

/-- The capacity is enough for the cells that are there and the keys still to come (rule R213, premise (3)). -/
def HasRoom (s : State) (keys : List U64) : Prop :=
  ∀ c, s.config.snapCapacity = some c → memSize s.snap + (newKeys s.snap keys).length ≤ c

theorem mem_newKeys {m : Memory} {keys : List U64} {p : U64} :
    p ∈ newKeys m keys ↔ p ∈ keys ∧ memRead m p = none := by
  simp [newKeys]

theorem newKeys_nodup (m : Memory) (keys : List U64) : (newKeys m keys).Nodup := keys.nodup_dedup.filter _

/-- An empty snapshot needs room for every distinct key, so what rule R213 asks of the capacity is enough. -/
theorem HasRoom.of_holdsDistinct {s : State} {keys : List U64} (hsnap : s.snap = []) (h : HoldsDistinct s keys) :
    HasRoom s keys := by
  intro c hc
  have hnew : newKeys [] keys = keys.dedup := by simp [newKeys]
  rw [hsnap, hnew, memSize, List.length_nil, Nat.zero_add]
  exact h c hc

/-- A key that is there needs no room. -/
theorem newKeys_cons_of_present {m : Memory} {p : U64} (h : memRead m p ≠ none) (v : U64) (keys : List U64) :
    (newKeys m (p :: keys)).Perm (newKeys (memWrite m p v) keys) := by
  rw [List.perm_ext_iff_of_nodup (newKeys_nodup ..) (newKeys_nodup ..)]
  intro q
  rw [mem_newKeys, mem_newKeys, memRead_memWrite, List.mem_cons]
  by_cases hq : q = p
  · subst hq
    simp [h]
  · simp [hq]

/-- A key that is not there needs room for itself. -/
theorem newKeys_cons_of_absent {m : Memory} {p : U64} (h : memRead m p = none) (v : U64) (keys : List U64) :
    (newKeys m (p :: keys)).Perm (p :: newKeys (memWrite m p v) keys) := by
  have hp : p ∉ newKeys (memWrite m p v) keys := by simp [mem_newKeys]
  rw [List.perm_ext_iff_of_nodup (newKeys_nodup ..) (List.nodup_cons.2 ⟨hp, newKeys_nodup ..⟩)]
  intro q
  rw [mem_newKeys, List.mem_cons, List.mem_cons, mem_newKeys, memRead_memWrite]
  by_cases hq : q = p
  · subst hq
    simp [h]
  · simp [hq]

/-- A write takes exactly the room that its key needed. -/
theorem memSize_add_newKeys_memWrite {m : Memory} (hm : m.wf = true) (p v : U64) (keys : List U64) :
    memSize (memWrite m p v) + (newKeys (memWrite m p v) keys).length = memSize m + (newKeys m (p :: keys)).length := by
  rw [memSize_memWrite hm]
  split
  · next h =>
    rw [(newKeys_cons_of_absent h v keys).length_eq, List.length_cons]
    omega
  · next h => rw [(newKeys_cons_of_present h v keys).length_eq, Nat.add_zero]

/-- Where there is room for a key, a write to it is not refused. -/
theorem HasRoom.not_full {s : State} {p : U64} {keys : List U64} (h : HasRoom s (p :: keys)) :
    ¬(memRead s.snap p = none ∧ atCapacity s = true) := by
  rintro ⟨hnew, hfull⟩
  have hle := h _ ((atCapacity_iff s).1 hfull)
  have hpos := List.length_pos_of_mem (mem_newKeys.2 ⟨List.mem_cons_self (l := keys), hnew⟩)
  omega

/-- After the write there is room for the keys still to come. -/
theorem HasRoom.storeCell {s : State} {p : U64} {keys : List U64} (hwf : s.snap.wf = true)
    (h : HasRoom s (p :: keys)) (v : U64) : HasRoom (s.storeCell p v) keys := by
  intro c hc
  rw [State.storeCell_snap, memSize_add_newKeys_memWrite hwf]
  exact h c hc

/-! ## The last write -/

theorem lastWrite_cons (q v : U64) (rest : List (U64 × U64)) (p : U64) :
    lastWrite ((q, v) :: rest) p = (lastWrite rest p).or (if q = p then some v else none) := by
  rw [lastWrite]
  cases lastWrite rest p <;> rfl

/-- Writing a cell first and then the others is reading the last write. -/
theorem lastWrite_or_memRead_memWrite (q v : U64) (rest : List (U64 × U64)) (m : Memory) (p : U64) :
    (lastWrite rest p).or (memRead (memWrite m q v) p) = (lastWrite ((q, v) :: rest) p).or (memRead m p) := by
  rw [lastWrite_cons, memRead_memWrite, Option.or_assoc]
  by_cases h : q = p
  · rw [if_pos h, if_pos h.symm, Option.some_or]
  · rw [if_neg h, if_neg (Ne.symm h), Option.none_or]

/-! ## The run of a load -/

/-- `t` is `s` after the writes of `cells`, each answered `Done`, with `rest` still on the port. -/
structure LoadedBy (cells : List (U64 × U64)) (rest : List HostEvent) (s t : State) : Prop where
  phase : t.phase = phaseAfter t.remain
  root : t.root = s.root
  remain : t.remain.toNat + cells.length = s.remain.toNat
  reads : ∀ p, memRead t.snap p = (lastWrite cells p).or (memRead s.snap p)
  port : t.port = rest
  responses : t.responses = s.responses ++ List.replicate cells.length .done

/-- One `CELLWR` of a load. -/
theorem step_cellwr_of_room {s : State} {p v : U64} {is : List Instr} {rest : List HostEvent} {keys : List U64}
    (hport : s.port = commandsOf (.cellwr p v :: is) ++ rest) (hloading : s.phase = .loading)
    (hroom : HasRoom s (p :: keys)) :
    step s = .next ((s.storeCell p v).withHost (commandsOf is ++ rest) (s.responses ++ [.done])) :=
  (step_of_commandsOf_cons hport).trans
    (exec_cellwr_of_room (s := s.withPort (commandsOf is ++ rest)) hloading hroom.not_full v)

/-- What the first write and the others after it give is what all of them give. -/
theorem LoadedBy.cons {p v : U64} {cells : List (U64 × U64)} {rest q : List HostEvent} {s t : State}
    (hne : s.remain ≠ 0) (h : LoadedBy cells rest ((s.storeCell p v).withHost q (s.responses ++ [.done])) t) :
    LoadedBy ((p, v) :: cells) rest s t where
  phase := h.phase
  root := h.root
  remain := by
    have hcount := h.remain
    rw [State.withHost_remain, State.storeCell_remain] at hcount
    rw [List.length_cons]
    bv_omega
  reads a := by
    rw [h.reads, State.withHost_snap, State.storeCell_snap, lastWrite_or_memRead_memWrite]
  port := h.port
  responses := by
    rw [h.responses, State.withHost_responses, List.append_assoc, List.length_cons, List.replicate_succ,
      List.singleton_append]

/-- Where cells are still to come and there is room for them, their `CELLWR`s run to the end. -/
theorem run_cells (cells : List (U64 × U64)) {s : State} {rest : List HostEvent} (hwf : s.snap.wf = true)
    (hphase : s.phase = phaseAfter s.remain) (hlen : cells.length ≤ s.remain.toNat)
    (hroom : HasRoom s (cells.map Prod.fst))
    (hport : s.port = commandsOf (cells.map (fun c => .cellwr c.1 c.2)) ++ rest) :
    ∃ t, run cells.length s = .next t ∧ LoadedBy cells rest s t := by
  induction cells generalizing s with
  | nil => exact ⟨s, rfl, hphase, rfl, rfl, fun _ => rfl, hport, (List.append_nil _).symm⟩
  | cons c cells ih =>
    obtain ⟨p, v⟩ := c
    rw [List.length_cons] at hlen
    have hne : s.remain ≠ 0 := by bv_omega
    have hstep := step_cellwr_of_room (v := v) hport (hphase.trans (phaseAfter_of_ne hne)) hroom
    have hrest : cells.length ≤ (s.remain - 1).toNat := by bv_omega
    obtain ⟨t, hrun, ht⟩ := ih (s := (s.storeCell p v).withHost (commandsOf _ ++ rest) (s.responses ++ [.done]))
      (memWrite_wf hwf p v) rfl hrest (hroom.storeCell hwf v) rfl
    exact ⟨t, (run_succ_of_next hstep).trans hrun, ht.cons hne⟩

end Sys2Proof.Machine
end

section
/-!
SUPPORT. The run of a dataset's commands: its context, its cells, its queries (rules R87 and R175).
-/

namespace Sys2Proof.Machine

/-! ## The context -/

/-- The `CTXINIT` of a run. -/
theorem step_ctxinit_of_empty {s : State} {root count : U64} {is : List Instr} {rest : List HostEvent}
    (hport : s.port = commandsOf (.ctxinit root count :: is) ++ rest) (hempty : s.phase = .empty) :
    step s = .next ((s.initContext root count).withHost (commandsOf is ++ rest) (s.responses ++ [.done])) :=
  (step_of_commandsOf_cons hport).trans
    (exec_ctxinit_of_empty (s := s.withPort (commandsOf is ++ rest)) hempty root count)

/-! ## The queries -/

/-- One `XLATE` of the queries. -/
theorem step_xlate_of_ready {s : State} {va b : U64} {is : List Instr} {rest : List HostEvent}
    (hport : s.port = commandsOf (.xlate va b :: is) ++ rest) (hready : s.phase = .ready) :
    step s = .next
      (s.withHost (commandsOf is ++ rest) (s.responses ++ [specTranslate (memRead s.snap) s.root va])) := by
  rw [step_of_commandsOf_cons hport, ← walk_response_eq_specTranslate]
  exact exec_xlate_of_ready (s := s.withPort (commandsOf is ++ rest)) hready va b

/-- In READY the queries run to the end; each is answered, and nothing else changes. -/
theorem run_queries (vas : List U64) {s : State} {rest : List HostEvent} (hready : s.phase = .ready)
    (hport : s.port = commandsOf (vas.map (fun va => .xlate va 0)) ++ rest) :
    run vas.length s =
      .next (s.withHost rest (s.responses ++ vas.map (specTranslate (memRead s.snap) s.root))) := by
  induction vas generalizing s with
  | nil =>
    have hs : s.withHost rest s.responses = s := by rw [← show s.port = rest from hport]; rfl
    rw [List.map_nil, List.append_nil, hs]
    rfl
  | cons va vas ih =>
    rw [List.length_cons, run_succ_of_next (step_xlate_of_ready hport hready),
      ih (s := s.withHost (commandsOf _ ++ rest) (s.responses ++ [_])) hready rfl, State.withHost_responses,
      List.append_assoc]
    rfl

/-! ## The whole run -/

/-- From EMPTY with no cell, where the capacity holds the distinct keys, the commands of a dataset run to the end:
`Done` for the context and for each cell, then the translation of each query. -/
theorem run_commands {d : Dataset} {s : State} {rest : List HostEvent} (hlen : d.cells.length < 2 ^ 64)
    (hempty : s.phase = .empty) (hsnap : s.snap = []) (hkeys : HoldsDistinct s (d.cells.map Prod.fst))
    (hport : s.port = commandsOf d.commands ++ rest) :
    ∃ t, run (1 + d.cells.length + d.queries.length) s = .next t ∧
      t.responses = s.responses ++ (List.replicate (1 + d.cells.length) .done ++
        d.queries.map (specTranslate (lastWrite d.cells) d.root)) := by
  have hinit := run_succ_of_next (k := 0) (step_ctxinit_of_empty hport hempty)
  have hcount : (BitVec.ofNat 64 d.cells.length).toNat = d.cells.length := toNat_ofNat_length hlen
  rw [commandsOf_append, List.append_assoc] at hinit
  obtain ⟨t, hload, ht⟩ := run_cells d.cells
    (s := (s.initContext d.root (BitVec.ofNat 64 d.cells.length)).withHost (commandsOf _ ++ (commandsOf _ ++ rest))
      (s.responses ++ [.done]))
    (congrArg Memory.wf hsnap) rfl hcount.ge (HasRoom.of_holdsDistinct hsnap hkeys) rfl
  have hready : t.phase = .ready := by
    have hremain : t.remain.toNat + d.cells.length = d.cells.length := ht.remain.trans hcount
    rw [ht.phase, show t.remain = 0 by bv_omega, phaseAfter_zero]
  have hreads : memRead t.snap = lastWrite d.cells := by
    funext p
    rw [ht.reads, State.withHost_snap, State.initContext_snap, hsnap, memRead_nil, Option.or_none]
  have hroot : t.root = d.root := ht.root
  have hqueries := run_queries d.queries hready ht.port
  refine ⟨_, run_add_next.2 ⟨t, run_add_next.2 ⟨_, hinit, hload⟩, hqueries⟩, ?_⟩
  rw [State.withHost_responses, ht.responses, State.withHost_responses, hreads, hroot, Nat.add_comm 1,
    List.replicate_succ, List.append_assoc, List.append_assoc]
  rfl

/-! ## The output -/

/-- The loop's response is always a result. -/
theorem specLoop_isResult (cells : U64 → Option U64) (va : U64) (levels : List Nat) (base : U64) :
    (specLoop cells va levels base).IsResult := by
  induction levels generalizing base with
  | nil => exact .inl rfl
  | cons level rest ih =>
    rw [specLoop]
    split
    · exact .inl rfl
    split_ifs
    · exact .inl rfl
    · exact .inr ⟨_, rfl⟩
    · exact .inr ⟨_, rfl⟩
    · exact .inr ⟨_, rfl⟩
    · exact ih _

/-- `Done` has no line. -/
theorem outputLines_replicate_done_append (n : Nat) (rs : List Response) :
    outputLines (List.replicate n .done ++ rs) = outputLines rs := by
  have hdone : outputLines (List.replicate n .done) = [] := by
    rw [outputLines, List.filterMap_replicate_of_none rfl]
  rw [outputLines, List.filterMap_append, ← outputLines, ← outputLines, hdone, List.nil_append]

/-- Settles O46. -/
theorem datasetRunGivesItsOutputText : Obligations.DatasetRunGivesItsOutputText := by
  intro d s rest hlen hempty hsnap hkeys hport
  obtain ⟨t, hrun, hresp⟩ := run_commands hlen hempty hsnap hkeys hport
  refine ⟨t, _, hrun, hresp, ?_⟩
  have hresults : ∀ r ∈ d.queries.map (specTranslate (lastWrite d.cells) d.root), r.IsResult := by
    simp only [List.forall_mem_map]
    exact fun va _ => specLoop_isResult _ va _ _
  rw [outputLines_replicate_done_append, outputLines_of_isResult hresults, List.map_map]
  refine List.map_congr_left (fun va _ => ?_)
  rw [Function.comp_apply]
  cases specTranslate (lastWrite d.cells) d.root va <;> rfl

end Sys2Proof.Machine
end

section
/-!
SUPPORT. The operations that depend on their operands alone, `VADEC`, `PDDEC` and `LPDET`: the decomposer's fields as shifts
and masks, and the detector as a function of bit 7 and the level (rules R100, R104, R115 and R124).
-/

namespace Sys2Proof.Machine

/-! ## The fields by shift and mask -/

/-- A mask of `len` low bits changes nothing of what is cut off at `len` bits anyway. -/
theorem setWidth_and_lowMask (x : U64) {mask : U64} {len : Nat} (h : mask.toNat = 2 ^ len - 1) :
    (x &&& mask).setWidth len = x.setWidth len := by
  apply BitVec.eq_of_toNat_eq
  rw [BitVec.toNat_setWidth, BitVec.toNat_setWidth, BitVec.toNat_and, h, Nat.and_two_pow_sub_one_eq_mod, Nat.mod_mod]

/-- The two forms of the six fields in rule R100: bit ranges, and shifts and masks. -/
theorem decomposeVA_eq_shift_mask (va : U64) :
    decomposeVA va =
      { rsvd := (va >>> 48).setWidth 16
        ix1 := ((va >>> 39) &&& 0x1FF).setWidth 9
        ix2 := ((va >>> 30) &&& 0x1FF).setWidth 9
        ix3 := ((va >>> 21) &&& 0x1FF).setWidth 9
        ix4 := ((va >>> 12) &&& 0x1FF).setWidth 9
        offset := (va &&& 0xFFF).setWidth 12 } := by
  have hindex (x : U64) : (x &&& 0x1FF).setWidth 9 = x.setWidth 9 := setWidth_and_lowMask x rfl
  have hoffset : (va &&& 0xFFF).setWidth 12 = va.setWidth 12 := setWidth_and_lowMask va rfl
  simp only [decomposeVA, ← BitVec.setWidth_ushiftRight_eq_extractLsb, hindex, hoffset, BitVec.ushiftRight_zero]

/-! ## The detector -/

/-- A level operand from 1 to 4 names a walk level (rule R120). -/
theorem exists_levelOf {level : U64} (h₁ : 1 ≤ level.toNat) (h₄ : level.toNat ≤ 4) : ∃ k, levelOf level = some k := by
  rcases levelOf_cases level with ⟨_, h⟩ | ⟨_, h⟩ | ⟨_, h⟩ | ⟨_, h⟩ | ⟨hout, _⟩
  case inr.inr.inr.inr => omega
  all_goals exact ⟨_, h⟩

/-- At one level, descriptors with the same bit 7 have one verdict (rule R124). -/
theorem exists_detectLargePage_eq (bit7 : Bool) (k : Level) :
    ∃ v, ∀ raw, largePageBit raw = bit7 → detectLargePage raw k = v := by
  cases k with
  | one => exact ⟨_, fun raw _ => detectLargePage_one raw⟩
  | two =>
    cases bit7 with
    | true => exact ⟨_, fun _ h => detectLargePage_two_large h⟩
    | false => exact ⟨_, fun _ h => detectLargePage_two_small h⟩
  | three =>
    cases bit7 with
    | true => exact ⟨_, fun _ h => detectLargePage_three_large h⟩
    | false => exact ⟨_, fun _ h => detectLargePage_three_small h⟩
  | four => exact ⟨_, fun raw _ => detectLargePage_four raw⟩

/-! ## The statements -/

/-- Settles O7: the response is the decomposer's record, in its second form. -/
theorem vadecRespondsSixFields : Obligations.VadecRespondsSixFields := by
  intro va b s
  refine ⟨decode_encode (.vadec va b), ?_⟩
  rw [exec_vadec, decomposeVA_eq_shift_mask]
  rfl

/-- Settles O15, operation by operation; the level of `LPDET` is legal, so it names one of the detector's four. -/
theorem pureOperationsDependOnOperandsOnly : Obligations.PureOperationsDependOnOperandsOnly := by
  refine ⟨fun va => ⟨_, exec_vadec va⟩, fun raw => ⟨_, exec_pddec raw⟩, tableBase_eq_specBase,
    fun bit7 level h₁ h₄ => ?_⟩
  obtain ⟨k, hk⟩ := exists_levelOf h₁ h₄
  obtain ⟨v, hv⟩ := exists_detectLargePage_eq bit7 k
  refine ⟨.largePage v, fun raw s hbit => ?_⟩
  rw [exec_lpdet_of_level hk, hv raw hbit]
  rfl

end Sys2Proof.Machine
end

section
/-!
SUPPORT. The fields of a virtual address put together again (rule R101). Words and fields are compared as natural numbers:
the number of a word is the sum of its fields by their weights.
-/

namespace Sys2Proof.Machine

/-! ## The fields as one number -/

/-- The number whose digits are the four indices and the offset: what bits 47:0 hold. -/
def VAFields.lowNumber (f : VAFields) : Nat :=
  f.ix1.toNat * 2 ^ 39 + f.ix2.toNat * 2 ^ 30 + f.ix3.toNat * 2 ^ 21 + f.ix4.toNat * 2 ^ 12 + f.offset.toNat

theorem VAFields.lowNumber_lt (f : VAFields) : f.lowNumber < 2 ^ 48 := by
  unfold VAFields.lowNumber
  omega

/-- The decomposer's fields in natural numbers (rule R75). -/
theorem decomposeVA_toNat (va : U64) :
    (decomposeVA va).rsvd.toNat = va.toNat / 2 ^ 48 ∧ (decomposeVA va).ix1.toNat = va.toNat / 2 ^ 39 % 2 ^ 9 ∧
    (decomposeVA va).ix2.toNat = va.toNat / 2 ^ 30 % 2 ^ 9 ∧ (decomposeVA va).ix3.toNat = va.toNat / 2 ^ 21 % 2 ^ 9 ∧
    (decomposeVA va).ix4.toNat = va.toNat / 2 ^ 12 % 2 ^ 9 ∧ (decomposeVA va).offset.toNat = va.toNat % 2 ^ 12 := by
  have h := va.isLt
  simp only [decomposeVA, BitVec.extractLsb'_toNat, Nat.shiftRight_eq_div_pow, pow_zero, Nat.div_one, and_true]
  omega

/-- The indices and the offset of an address are the digits of its low 48 bits. -/
theorem lowNumber_decomposeVA (va : U64) : (decomposeVA va).lowNumber = va.toNat % 2 ^ 48 := by
  obtain ⟨_, h₁, h₂, h₃, h₄, hoff⟩ := decomposeVA_toNat va
  rw [VAFields.lowNumber, h₁, h₂, h₃, h₄, hoff]
  omega

/-- Fields of equal numbers are equal. -/
theorem VAFields.eq_of_toNat_eq {f g : VAFields} (hrsvd : f.rsvd.toNat = g.rsvd.toNat)
    (hlow : f.lowNumber = g.lowNumber) : f = g := by
  unfold VAFields.lowNumber at hlow
  cases f
  cases g
  simp only [VAFields.mk.injEq, ← BitVec.toNat_inj] at *
  omega

/-! ## Placing a field and or-ing it in -/

/-- A field placed at bit `k`, within the word, in natural numbers. -/
theorem setWidth_shiftLeft_toNat {n k : Nat} (x : BitVec n) (h : n + k ≤ 64) :
    (x.setWidth 64 <<< k).toNat = x.toNat * 2 ^ k := by
  have hxk : x.toNat * 2 ^ k < 2 ^ 64 :=
    calc x.toNat * 2 ^ k < 2 ^ n * 2 ^ k := Nat.mul_lt_mul_of_pos_right x.isLt (Nat.two_pow_pos k)
      _ = 2 ^ (n + k) := (pow_add 2 n k).symm
      _ ≤ 2 ^ 64 := Nat.pow_le_pow_right (by decide) h
  rw [BitVec.toNat_shiftLeft, BitVec.toNat_setWidth_of_le (by omega), Nat.shiftLeft_eq, Nat.mod_eq_of_lt hxk]

/-- Or-ing a field placed at bit `k` to a word of `k` bits adds it: the two are disjoint. -/
theorem setWidth_shiftLeft_or_toNat {n k : Nat} {y : U64} (x : BitVec n) (h : n + k ≤ 64) (hy : y.toNat < 2 ^ k) :
    (x.setWidth 64 <<< k ||| y).toNat = x.toNat * 2 ^ k + y.toNat := by
  rw [BitVec.toNat_or, setWidth_shiftLeft_toNat x h, Nat.mul_comm, Nat.two_pow_add_eq_or_of_lt hy]

/-! ## The fields as one word -/

/-- Rule R101: the word that the indices and the offset recombine to. -/
def VAFields.lowWord (f : VAFields) : U64 :=
  (f.ix1.setWidth 64 <<< 39) ||| (f.ix2.setWidth 64 <<< 30) ||| (f.ix3.setWidth 64 <<< 21) |||
    (f.ix4.setWidth 64 <<< 12) ||| f.offset.setWidth 64

/-- The indices and the offset or-ed, from the lowest field up. -/
theorem VAFields.lowWord_toNat (f : VAFields) : f.lowWord.toNat = f.lowNumber := by
  have hoff : (f.offset.setWidth 64).toNat = f.offset.toNat := BitVec.toNat_setWidth_of_le (by decide)
  have h₄ := setWidth_shiftLeft_or_toNat (k := 12) f.ix4 (by decide) (hoff.trans_lt f.offset.isLt)
  have h₃ := setWidth_shiftLeft_or_toNat (k := 21) f.ix3 (by decide) (h₄.trans_lt (by omega))
  have h₂ := setWidth_shiftLeft_or_toNat (k := 30) f.ix2 (by decide) (h₃.trans_lt (by omega))
  have h₁ := setWidth_shiftLeft_or_toNat (k := 39) f.ix1 (by decide) (h₂.trans_lt (by omega))
  simp only [VAFields.lowWord, VAFields.lowNumber, BitVec.or_assoc, h₁, h₂, h₃, h₄, hoff, Nat.add_assoc]

/-- Rule R101: `|` may be replaced by `+`. -/
theorem VAFields.lowWord_eq_add (f : VAFields) :
    f.lowWord = (f.ix1.setWidth 64 <<< 39) + (f.ix2.setWidth 64 <<< 30) + (f.ix3.setWidth 64 <<< 21) +
      (f.ix4.setWidth 64 <<< 12) + f.offset.setWidth 64 := by
  have hlt := f.lowNumber_lt
  have h₁ := setWidth_shiftLeft_toNat (k := 39) f.ix1 (by decide)
  have h₂ := setWidth_shiftLeft_toNat (k := 30) f.ix2 (by decide)
  have h₃ := setWidth_shiftLeft_toNat (k := 21) f.ix3 (by decide)
  have h₄ := setWidth_shiftLeft_toNat (k := 12) f.ix4 (by decide)
  have hoff : (f.offset.setWidth 64).toNat = f.offset.toNat := BitVec.toNat_setWidth_of_le (by decide)
  apply BitVec.eq_of_toNat_eq
  unfold VAFields.lowNumber at hlt
  rw [f.lowWord_toNat, VAFields.lowNumber]
  simp only [BitVec.toNat_add, h₁, h₂, h₃, h₄, hoff]
  omega

/-- The word of all six fields in natural numbers. -/
theorem VAFields.rsvd_or_lowWord_toNat (f : VAFields) :
    (f.rsvd.setWidth 64 <<< 48 ||| f.lowWord).toNat = f.rsvd.toNat * 2 ^ 48 + f.lowNumber := by
  rw [setWidth_shiftLeft_or_toNat f.rsvd (by decide) (f.lowWord_toNat.trans_lt f.lowNumber_lt), f.lowWord_toNat]

/-- Rule R101: the fields of an address, without `rsvd`, recombine to its bits 47:0. -/
theorem lowWord_decomposeVA (va : U64) : (decomposeVA va).lowWord = va &&& 0x0000FFFFFFFFFFFF := by
  apply BitVec.eq_of_toNat_eq
  rw [VAFields.lowWord_toNat, lowNumber_decomposeVA, and_low48_toNat]

/-- Rule R101: with `rsvd` they recombine to the address. -/
theorem rsvd_or_lowWord_decomposeVA (va : U64) :
    (decomposeVA va).rsvd.setWidth 64 <<< 48 ||| (decomposeVA va).lowWord = va := by
  obtain ⟨hrsvd, _⟩ := decomposeVA_toNat va
  apply BitVec.eq_of_toNat_eq
  rw [VAFields.rsvd_or_lowWord_toNat, hrsvd, lowNumber_decomposeVA, Nat.div_add_mod']

/-- Rule R101, conversely: decomposing the word of six fields returns them. -/
theorem decomposeVA_rsvd_or_lowWord (f : VAFields) : decomposeVA (f.rsvd.setWidth 64 <<< 48 ||| f.lowWord) = f := by
  have hlt := f.lowNumber_lt
  obtain ⟨hrsvd, _⟩ := decomposeVA_toNat (f.rsvd.setWidth 64 <<< 48 ||| f.lowWord)
  apply VAFields.eq_of_toNat_eq
  · rw [hrsvd, f.rsvd_or_lowWord_toNat]
    omega
  · rw [lowNumber_decomposeVA, f.rsvd_or_lowWord_toNat]
    omega

/-- Settles O28. -/
theorem addressFieldsRecombine : Obligations.AddressFieldsRecombine := by
  refine ⟨fun va => ⟨lowWord_decomposeVA va, (decomposeVA va).lowWord_eq_add, rsvd_or_lowWord_decomposeVA va⟩,
    fun f => ?_⟩
  simpa only [VAFields.lowWord, BitVec.or_assoc] using decomposeVA_rsvd_or_lowWord f

end Sys2Proof.Machine
end

section
/-!
SUPPORT. The page-descriptor decoder: the nine fields by shift and mask, the nine fields put together again, and the bounds
of `TBASE` (rules R110, R111 and R112).
-/

namespace Sys2Proof.Machine

/-! ## The fields by shift and mask -/

/-- The mask of one bit tests that bit. -/
theorem decide_and_bitMask_ne_zero (x : U64) {mask : U64} {k : Nat} (h : mask.toNat = 2 ^ k) :
    decide (x &&& mask ≠ 0) = x.getLsbD k := by
  have hand : (x &&& mask).toNat = (x.getLsbD k).toNat * 2 ^ k := by
    rw [BitVec.toNat_and, h, Nat.and_two_pow, BitVec.getLsbD]
  cases hbit : x.getLsbD k <;> simp [← BitVec.toNat_inj, hand, hbit]

/-- The two forms of the nine fields in rule R110: bit ranges, and shifts and masks. -/
theorem decodeDescriptor_eq_shift_mask (raw : U64) :
    decodeDescriptor raw =
      { present := decide (raw &&& 0x1 ≠ 0)
        writable := decide (raw &&& 0x2 ≠ 0)
        userAccessible := decide (raw &&& 0x4 ≠ 0)
        rsvd_6_3 := (raw >>> 3).setWidth 4
        largePage := decide (raw &&& 0x80 ≠ 0)
        rsvd_11_8 := (raw >>> 8).setWidth 4
        physicalFrame := (raw >>> 12).setWidth 40
        rsvd_62_52 := (raw >>> 52).setWidth 11
        executeDisabled := decide (raw &&& 0x8000000000000000 ≠ 0) } := by
  have h₀ : decide (raw &&& 0x1 ≠ 0) = raw.getLsbD 0 := decide_and_bitMask_ne_zero raw rfl
  have h₁ : decide (raw &&& 0x2 ≠ 0) = raw.getLsbD 1 := decide_and_bitMask_ne_zero raw rfl
  have h₂ : decide (raw &&& 0x4 ≠ 0) = raw.getLsbD 2 := decide_and_bitMask_ne_zero raw rfl
  have h₇ : decide (raw &&& 0x80 ≠ 0) = raw.getLsbD 7 := decide_and_bitMask_ne_zero raw rfl
  have h₆₃ : decide (raw &&& 0x8000000000000000 ≠ 0) = raw.getLsbD 63 := decide_and_bitMask_ne_zero raw rfl
  simp only [decodeDescriptor, presentBit, largePageBit, BitVec.setWidth_ushiftRight_eq_extractLsb,
    h₀, h₁, h₂, h₇, h₆₃]

/-- Settles O8: the response is the decoder's record, in its second form. -/
theorem pddecRespondsNineFields : Obligations.PddecRespondsNineFields := by
  intro raw b s
  refine ⟨decode_encode (.pddec raw b), ?_⟩
  rw [exec_pddec, decodeDescriptor_eq_shift_mask]
  rfl

/-! ## The fields as one word -/

/-- A one-bit field is a field of width 1. -/
theorem ofNat_toNat_getLsbD (x : U64) (k : Nat) :
    BitVec.ofNat 64 (x.getLsbD k).toNat = (x.extractLsb' k 1).setWidth 64 := by
  apply BitVec.eq_of_toNat_eq
  rw [BitVec.getLsbD, Nat.toNat_testBit]
  simp [BitVec.extractLsb'_toNat, Nat.shiftRight_eq_div_pow]

/-- Where `y` is the `k` low bits of a word, or-ing in the word's next field, of width `n`, gives its `k + n` low bits. -/
theorem extractLsb'_or_toNat {x y : U64} {k n : Nat} (h : n + k ≤ 64) (hy : y.toNat = x.toNat % 2 ^ k) :
    ((x.extractLsb' k n).setWidth 64 <<< k ||| y).toNat = x.toNat % 2 ^ (k + n) := by
  have hlt : y.toNat < 2 ^ k := hy ▸ Nat.mod_lt _ (Nat.two_pow_pos k)
  rw [setWidth_shiftLeft_or_toNat _ h hlt, BitVec.extractLsb'_toNat, Nat.shiftRight_eq_div_pow, hy, pow_add,
    Nat.mod_mul, Nat.add_comm, Nat.mul_comm]

/-- The same for a field of one bit. -/
theorem getLsbD_or_toNat {x y : U64} {k : Nat} (h : k < 64) (hy : y.toNat = x.toNat % 2 ^ k) :
    (BitVec.ofNat 64 (x.getLsbD k).toNat <<< k ||| y).toNat = x.toNat % 2 ^ (k + 1) := by
  rw [ofNat_toNat_getLsbD]
  exact extractLsb'_or_toNat (by omega) hy

/-- Settles O29: from bit 0 up, each field is or-ed to the bits below it, until all 64 are there. -/
theorem descriptorFieldsRecombine : Obligations.DescriptorFieldsRecombine := by
  intro raw d
  have h₁ : (BitVec.ofNat 64 d.present.toNat).toNat = raw.toNat % 2 ^ 1 := by
    rw [show d.present = raw.getLsbD 0 from rfl, ofNat_toNat_getLsbD,
      BitVec.toNat_setWidth_of_le (by decide), BitVec.extractLsb'_toNat, Nat.shiftRight_zero]
  have h₂ := getLsbD_or_toNat (k := 1) (by decide) h₁
  have h₃ := getLsbD_or_toNat (k := 2) (by decide) h₂
  have h₇ := extractLsb'_or_toNat (k := 3) (n := 4) (by decide) h₃
  have h₈ := getLsbD_or_toNat (k := 7) (by decide) h₇
  have h₁₂ := extractLsb'_or_toNat (k := 8) (n := 4) (by decide) h₈
  have h₅₂ := extractLsb'_or_toNat (k := 12) (n := 40) (by decide) h₁₂
  have h₆₃ := extractLsb'_or_toNat (k := 52) (n := 11) (by decide) h₅₂
  have h₆₄ := getLsbD_or_toNat (k := 63) (by decide) h₆₃
  apply BitVec.eq_of_toNat_eq
  simp only [BitVec.or_assoc]
  exact (h₆₄.trans (Nat.mod_eq_of_lt raw.isLt)).symm

/-! ## The table base -/

/-- The largest table base (rule R112). -/
theorem tableBase_toNat_le (raw : U64) : (tableBase raw).toNat ≤ 0x000FFFFFFFFFF000 := by
  have h := tableBase_toNat raw
  omega

/-- The bits of a table base outside the frame are 0. -/
theorem tableBase_and_outside_frame (raw : U64) : tableBase raw &&& 0xFFF0000000000FFF = 0 := by
  have hdisjoint : (0x000FFFFFFFFFF000#64) &&& 0xFFF0000000000FFF = 0#64 := by decide
  rw [tableBase_eq_specBase, specBase, BitVec.and_assoc, hdisjoint]
  exact BitVec.and_zero

/-- A table base depends on the frame alone. -/
theorem tableBase_congr {raw raw' : U64} (h : raw'.extractLsb' 12 40 = raw.extractLsb' 12 40) :
    tableBase raw' = tableBase raw := by
  rw [tableBase, tableBase, h]

/-- Settles O30. -/
theorem tableBaseIsMaskedFrame : Obligations.TableBaseIsMaskedFrame := by
  refine ⟨fun raw => ?_, by decide, by decide⟩
  exact ⟨rfl, tableBase_eq_specBase raw, tableBase_and_outside_frame raw, tableBase_toNat_le raw,
    fun _ h => tableBase_congr h⟩

end Sys2Proof.Machine
end

section
/-!
SUPPORT. The large-page detector: its response by level number and bit 7, and that a descriptor which ends one walk ends
the walk of every address of its region (rules R120, R121 and R123).
-/

namespace Sys2Proof.Machine

/-! ## The detector by level number -/

/-- Rule R120: a 64-bit operand names the walk level whose number it is. -/
theorem toNat_of_levelOf {level : U64} {k : Level} (h : levelOf level = some k) : level.toNat = k.number := by
  rcases levelOf_cases level with ⟨hn, hl⟩ | ⟨hn, hl⟩ | ⟨hn, hl⟩ | ⟨hn, hl⟩ | ⟨_, hl⟩ <;> rw [hl] at h <;> cases h
  all_goals exact hn

/-- Rule R120: a 64-bit operand outside 1 to 4 names no level. -/
theorem levelOf_eq_none {level : U64} (h : level.toNat < 1 ∨ 4 < level.toNat) : levelOf level = none := by
  rcases levelOf_cases level with ⟨hn, _⟩ | ⟨hn, _⟩ | ⟨hn, _⟩ | ⟨hn, _⟩ | ⟨_, hl⟩
  case inr.inr.inr.inr => exact hl
  all_goals omega

/-- The verdict in the form of rule R120: by the level's number, and bit 7 as a mask. -/
theorem detectLargePage_eq_ite (raw : U64) (k : Level) :
    detectLargePage raw k =
      if k.number = 2 ∧ raw &&& 0x80 ≠ 0 then { large := true, shift := 30 }
      else if k.number = 3 ∧ raw &&& 0x80 ≠ 0 then { large := true, shift := 21 }
      else { large := false, shift := 12 } := by
  cases k with
  | one => rfl
  | two => simp [detectLargePage, Level.number, largePageBit_iff]
  | three => simp [detectLargePage, Level.number, largePageBit_iff]
  | four => rfl

/-- Settles O9, by the level that a legal operand names. -/
theorem lpdetRespondsByLevelAndBitSeven : Obligations.LpdetRespondsByLevelAndBitSeven := by
  intro raw level s
  refine ⟨decode_encode (.lpdet raw level), fun hout => exec_lpdet_badLevel (levelOf_eq_none hout) raw s,
    fun h₁ h₄ => ?_⟩
  obtain ⟨k, hk⟩ := exists_levelOf h₁ h₄
  have htwo : k.number = 2 ↔ level = 2 := by rw [← toNat_of_levelOf hk]; exact BitVec.toNat_inj (y := 2)
  have hthree : k.number = 3 ↔ level = 3 := by rw [← toNat_of_levelOf hk]; exact BitVec.toNat_inj (y := 3)
  rw [exec_lpdet_of_level hk, detectLargePage_eq_ite]
  simp only [htwo, hthree]
  rfl

/-! ## The indices of one region -/

/-- The index of a level as a bit range of the address (rule R11). -/
theorem specIndex_eq_extractLsb' (va : U64) (j : Nat) :
    specIndex va j = (va.extractLsb' (48 - 9 * j) 9).setWidth 64 := by
  apply BitVec.eq_of_toNat_eq
  rw [specIndex_toNat, BitVec.toNat_setWidth_of_le (by decide), BitVec.extractLsb'_toNat, Nat.shiftRight_eq_div_pow]

/-- A bit range of a bit range that contains it. -/
theorem extractLsb'_extractLsb'_add {w : Nat} (x : BitVec w) {start len sub n : Nat} (h : sub + n ≤ len) :
    (x.extractLsb' start len).extractLsb' sub n = x.extractLsb' (start + sub) n := by
  ext i hi
  have hlen : sub + i < len := by omega
  simp [hlen, Nat.add_assoc]

/-- The index of a level lies in bits 47:s of the address where `s` is at most the index's lowest bit. -/
theorem specIndex_congr_of_extractLsb' {va va' : U64} {s j : Nat}
    (h : va'.extractLsb' s (48 - s) = va.extractLsb' s (48 - s)) (hj : 1 ≤ j) (hs : s + 9 * j ≤ 48) :
    specIndex va' j = specIndex va j := by
  have hstart : s + (48 - 9 * j - s) = 48 - 9 * j := by omega
  have hfield (x : U64) : (x.extractLsb' s (48 - s)).extractLsb' (48 - 9 * j - s) 9 = x.extractLsb' (48 - 9 * j) 9 := by
    rw [extractLsb'_extractLsb'_add x (by omega), hstart]
  rw [specIndex_eq_extractLsb', specIndex_eq_extractLsb', ← hfield, h, hfield]

/-- Where the walk ends, the offset is the bits below the last index used (rules R121 and R123). -/
theorem specShift_add_of_endsWalk {k : Nat} {d : U64} (h : EndsWalk k d) : specShift k + 9 * k = 48 := by
  rcases h with rfl | ⟨rfl | rfl, _⟩ <;> rfl

/-! ## The entries reached -/

/-- Walk levels are numbered from 1. -/
theorem Reaches.exists_eq_succ {m : Memory} {root va a : U64} {k : Nat} (h : Reaches m root va k a) :
    ∃ n, k = n + 1 := by
  cases h <;> exact ⟨_, rfl⟩

/-- The entry reached at a level depends on the indices up to that level alone. -/
theorem Reaches.congr {m : Memory} {root va va' a : U64} {k : Nat} (h : Reaches m root va k a)
    (hix : ∀ j, 1 ≤ j → j ≤ k → specIndex va' j = specIndex va j) : Reaches m root va' k a := by
  obtain ⟨n, rfl⟩ := h.exists_eq_succ
  induction n generalizing a with
  | zero => rwa [reaches_one_iff, hix 1 le_rfl le_rfl, ← reaches_one_iff]
  | succ n ih =>
    obtain ⟨a', d, hreach, husable, hcont, rfl⟩ := (reaches_succ_iff m root va n a).1 h
    have hreach' := ih hreach fun j h₁ hj => hix j h₁ (by omega)
    rw [← hix (n + 2) (by omega) le_rfl]
    exact (reaches_succ_iff m root va' n _).2 ⟨a', d, hreach', husable, hcont, rfl⟩

/-- Where an entry is reached, the walk ends as it does from the entry's table on. -/
theorem walk_ending_of_reaches {m : Memory} {root va a : U64} {n : Nat} (h : Reaches m root va (n + 1) a) :
    ∃ k base, k.number = n + 1 ∧ a = base + specIndex va k.number * 8 ∧
      (walk m root va).ending = (walkFrom m va k base).ending := by
  induction n generalizing a with
  | zero => exact ⟨.one, root, rfl, (reaches_one_iff m root va a).1 h, rfl⟩
  | succ n ih =>
    obtain ⟨a', d, hreach, husable, hcont, rfl⟩ := (reaches_succ_iff m root va n a).1 h
    obtain ⟨k, base, hk, rfl, hending⟩ := ih hreach
    rw [← hk] at hcont
    rcases hnext : k.next with _ | k'
    · exact absurd ((endsWalk_number_iff k d).2 (.inl hnext)) hcont
    · have hk' : k'.number = n + 2 := by rw [Level.number_of_next hnext, hk]
      rw [walkFrom_of_next husable hcont hnext] at hending
      exact ⟨k', specBase d, hk', by rw [hk'], hending⟩

/-- A usable descriptor that ends the walk gives its base plus the offset (rules R121 and R150). -/
theorem walk_ending_of_endsWalk {m : Memory} {root va a d : U64} {k : Nat} (hreach : Reaches m root va k a)
    (husable : UsableAt m a d) (hend : EndsWalk k d) :
    (walk m root va).ending = .ok (pageAddress d va (specShift k)) := by
  obtain ⟨n, rfl⟩ := hreach.exists_eq_succ
  obtain ⟨l, base, hl, rfl, hending⟩ := walk_ending_of_reaches hreach
  rw [← hl] at hend
  rw [hending, walkFrom_of_terminal husable hend, hl]

/-- A walk that ends at the same level as another one with the same indices up to there makes the same lookups. -/
theorem walk_reads_congr {m : Memory} {root va va' : U64}
    (hlen : (walk m root va').reads.length = (walk m root va).reads.length)
    (hix : ∀ j, 1 ≤ j → j ≤ (walk m root va).reads.length → specIndex va' j = specIndex va j) :
    (walk m root va').reads = (walk m root va).reads := by
  refine List.ext_getElem hlen fun n hn' hn => ?_
  have hread := (walk_reads_iff_reaches m root va n _).1 (List.getElem?_eq_getElem hn)
  have hread' := (walk_reads_iff_reaches m root va' n _).2 (hread.congr fun j h₁ hj => hix j h₁ (by omega))
  exact (List.getElem?_eq_some_iff.1 hread').2

/-- Settles O21: the chain that reaches the descriptor depends only on the indices up to its level, which are among the
shared bits. -/
theorem terminalDescriptorCoversItsRegion : Obligations.TerminalDescriptorCoversItsRegion := by
  intro m root va k a d hreach husable hend va' hregion
  have hshift := specShift_add_of_endsWalk hend
  have hix : ∀ j, 1 ≤ j → j ≤ k → specIndex va' j = specIndex va j :=
    fun j h₁ hj => specIndex_congr_of_extractLsb' hregion h₁ (by omega)
  have hreach' : Reaches m root va' k a := hreach.congr hix
  have hlen := walk_length_of_endsWalk hreach husable hend
  have hlen' := walk_length_of_endsWalk hreach' husable hend
  refine ⟨walk_reads_congr (hlen'.trans hlen.symm) (hlen ▸ hix), ?_⟩
  rw [walk_ending_of_endsWalk hreach' husable hend, pageAddress, tableBase_eq_specBase, pageOffset]

end Sys2Proof.Machine
end

section
/-!
SUPPORT. The invariant of the machine's states: the operations that write keep it, so every step does; and the capacity
(43_snapshot.md section 3, rule R136).
-/

namespace Sys2Proof.Machine

/-! ## The phase after counting -/

theorem phaseAfter_ne_empty (n : U64) : phaseAfter n ≠ .empty := by
  rcases phaseAfter_cases n with ⟨_, h⟩ | ⟨_, h⟩ <;> simp [h]

theorem phaseAfter_eq_loading_iff (n : U64) : phaseAfter n = .loading ↔ n ≠ 0 := by simp [phaseAfter]

theorem phaseAfter_eq_ready_iff (n : U64) : phaseAfter n = .ready ↔ n = 0 := by simp [phaseAfter]

/-! ## The capacity -/

/-- The capacity test at a finite capacity. -/
theorem atCapacity_iff_memSize_eq {s : State} {c : Nat} (hcap : s.config.snapCapacity = some c) :
    atCapacity s = true ↔ memSize s.snap = c := by
  rw [atCapacity_iff, hcap, Option.some_inj, eq_comm]

/-- A write that `CELLWR` accepts stays within the capacity: it adds a key only where the snapshot is not full. -/
theorem Consistent.memSize_memWrite_le {s : State} (hs : Consistent s) {p : U64}
    (hroom : ¬(memRead s.snap p = none ∧ atCapacity s = true)) (v : U64) {c : Nat}
    (hcap : s.config.snapCapacity = some c) : memSize (memWrite s.snap p v) ≤ c := by
  have hle := hs.withinCapacity c hcap
  rw [atCapacity_iff_memSize_eq hcap] at hroom
  rw [memSize_memWrite hs.canonical]
  split
  · next hnew =>
    have hne : memSize s.snap ≠ c := fun hfull => hroom ⟨hnew, hfull⟩
    omega
  · exact hle

/-! ## Consistency after each write -/

/-- The port and the responses are no part of the invariant. -/
theorem Consistent.withHost {s : State} (hs : Consistent s) (p : List HostEvent) (rs : List Response) :
    Consistent (s.withHost p rs) :=
  ⟨hs.canonical, hs.emptyHasNoCell, hs.loadingAwaitsCells, hs.readyAwaitsNone, hs.withinCapacity⟩

theorem Consistent.withPort {s : State} (hs : Consistent s) (rest : List HostEvent) : Consistent (s.withPort rest) :=
  hs.withHost rest s.responses

theorem Consistent.addResponse {s : State} (hs : Consistent s) (r : Response) : Consistent (s.addResponse r) :=
  hs.withHost s.port (s.responses ++ [r])

/-- Where the phase is the one that `REMAIN` calls for, the snapshot's own two clauses are all that is left. -/
theorem Consistent.of_phaseAfter {s : State} (hphase : s.phase = phaseAfter s.remain) (hwf : s.snap.wf = true)
    (hcap : ∀ c, s.config.snapCapacity = some c → memSize s.snap ≤ c) : Consistent s where
  canonical := hwf
  emptyHasNoCell h := absurd (hphase.symm.trans h) (phaseAfter_ne_empty _)
  loadingAwaitsCells h := (phaseAfter_eq_loading_iff _).1 (hphase.symm.trans h)
  readyAwaitsNone h := (phaseAfter_eq_ready_iff _).1 (hphase.symm.trans h)
  withinCapacity := hcap

/-- Rule R200: consistent whatever was before. -/
theorem consistent_applyReset (s : State) : Consistent s.applyReset where
  canonical := rfl
  emptyHasNoCell _ := rfl
  loadingAwaitsCells h := by simp at h
  readyAwaitsNone h := by simp at h
  withinCapacity c _ := Nat.zero_le c

theorem Consistent.initContext {s : State} (hs : Consistent s) (root count : U64) :
    Consistent (s.initContext root count) :=
  .of_phaseAfter rfl hs.canonical hs.withinCapacity

theorem Consistent.storeCell {s : State} (hs : Consistent s) {p : U64}
    (hroom : ¬(memRead s.snap p = none ∧ atCapacity s = true)) (v : U64) : Consistent (s.storeCell p v) :=
  .of_phaseAfter rfl (memWrite_wf hs.canonical p v) fun _ hcap => hs.memSize_memWrite_le hroom v hcap

/-- An accepted operation keeps the invariant: two write the block, the others only give their response. -/
theorem Consistent.exec_next {i : Instr} {s t : State} (hs : Consistent s) (h : exec i s = .next t) : Consistent t := by
  rcases exec_next_cases h with ⟨root, count, _, _, rfl⟩ | ⟨p, v, _, _, hroom, rfl⟩ | ⟨_, _, _, _, rfl⟩ |
    ⟨_, _, _, rfl⟩ | ⟨_, _, _, rfl⟩ | ⟨_, _, _, _, _, rfl⟩ | ⟨_, _, _, _, rfl⟩
  case inl => exact (hs.initContext root count).addResponse _
  case inr.inl => exact (hs.storeCell hroom v).addResponse _
  all_goals exact hs.addResponse _

/-! ## The statements -/

/-- Settles O39, by the three things a step can do. -/
theorem stepKeepsConsistent : Obligations.StepKeepsConsistent := by
  intro s t hs h
  rcases step_next_cases h with ⟨_, rfl⟩ | ⟨rest, _, rfl⟩ | ⟨_, rest, i, _, _, he⟩
  case inl => exact hs
  case inr.inl => exact consistent_applyReset _
  case inr.inr => exact (hs.withPort rest).exec_next he

/-- Settles O44: the refusal is `CELLWR`'s one test, and the size after the write is `memSize_memWrite`. -/
theorem capacityNeverDropsCells : Obligations.CapacityNeverDropsCells := by
  intro s p v c hs hloading hcap
  rw [and_comm (a := memSize s.snap = c), ← atCapacity_iff_memSize_eq hcap]
  refine ⟨fun hfull => exec_cellwr_of_full hloading hfull v, fun hroom => ?_⟩
  refine ⟨_, exec_cellwr_of_room hloading hroom v, hs.memSize_memWrite_le hroom v hcap,
    memSize_memWrite hs.canonical p v, fun a x hne hread => ?_⟩
  exact (memRead_memWrite_other hne s.snap v).trans hread

end Sys2Proof.Machine
end

section
/-!
SUPPORT. The snapshot's three operations, loads that repeat a key, and a snapshot without its not-present cells
(43_snapshot.md, rules R131 to R135).
-/

namespace Sys2Proof.Machine

/-! ## Leaving out the not-present cells -/

/-- A walk sees the same of every key when the not-present cells are left out. The form must be canonical: a cell that
is left out uncovers no other under its key. -/
theorem visible_cellAt_filter_present {lo : Nat} {m : Memory} (hm : Memory.risingFrom lo m = true) (k : Nat) :
    visible (cellAt k (m.filter fun c => c.2 &&& 1 ≠ 0)) = visible (cellAt k m) := by
  induction m generalizing lo with
  | nil => rfl
  | cons c rest ih =>
    obtain ⟨j, d⟩ := c
    obtain ⟨_, _, hrest⟩ := (Memory.risingFrom_cons ..).1 hm
    by_cases hp : d &&& 1 = 0
    · rw [List.filter_cons_of_neg (by simpa using hp), ih hrest]
      by_cases hj : j = k
      · subst hj
        rw [cellAt_below (Nat.lt_succ_self _) hrest, cellAt_cons_self]
        exact (if_pos hp).symm
      · rw [cellAt_cons_other hj]
    · rw [List.filter_cons_of_pos (by simpa using hp)]
      by_cases hj : j = k
      · subst hj
        rw [cellAt_cons_self, cellAt_cons_self]
      · rw [cellAt_cons_other hj, cellAt_cons_other hj, ih hrest]

/-- Settles O27, from O24: the two snapshots show a walk the same at every address. -/
theorem filteringNotPresentCellsIsInvisibleToXlate : Obligations.FilteringNotPresentCellsIsInvisibleToXlate :=
  fun s va b hready hwf =>
    ignoredBitsNeverMatter s { s with snap := s.snap.filter fun c => c.2 &&& 1 ≠ 0 } va va b b hready hready rfl
      (fun a => (visible_cellAt_filter_present hwf a.toNat).symm) rfl

/-! ## A load -/

/-- Settles O42: the load runs as `run_cells` says, and its last writes come before the cells already there. -/
theorem lastWriteWins : Obligations.LastWriteWins := by
  intro cells s rest hs hloading hlen hroom hport
  have hphase : s.phase = phaseAfter s.remain :=
    hloading.trans (phaseAfter_of_ne (hs.loadingAwaitsCells hloading)).symm
  obtain ⟨t, hrun, ht⟩ := run_cells cells hs.canonical hphase hlen hroom hport
  refine ⟨t, hrun, ht.phase, ht.root, ht.port, ht.remain, fun p => ?_⟩
  rw [ht.reads]
  cases lastWrite cells p <;> rfl

/-! ## The three operations -/

/-- Settles O10. -/
theorem ctxinitCreatesContext : Obligations.CtxinitCreatesContext :=
  fun root count _ => ⟨decode_encode (.ctxinit root count), fun hempty => exec_ctxinit_of_empty hempty root count,
    fun hne => exec_badPhase (by simpa using hne)⟩

/-- Settles O11: the capacity test, then what is read after the one write. -/
theorem cellwrStoresOneCell : Obligations.CellwrStoresOneCell := by
  intro paddr raw s
  rw [← atCapacity_iff]
  refine ⟨decode_encode (.cellwr paddr raw), fun hloading hroom => ?_,
    fun hloading hnew hfull => exec_cellwr_of_full hloading ⟨hnew, hfull⟩ raw,
    fun hne => exec_badPhase (by simpa using hne)⟩
  exact ⟨_, exec_cellwr_of_room hloading hroom raw, memRead_memWrite_self s.snap paddr raw,
    fun _ hother => memRead_memWrite_other hother s.snap raw, rfl, rfl, rfl, rfl, rfl, rfl⟩

/-- Settles O12. -/
theorem lookupRespondsExactKey : Obligations.LookupRespondsExactKey :=
  fun paddr b _ => ⟨decode_encode (.lookup paddr b), fun hready => exec_lookup_of_ready hready paddr b,
    fun hne => exec_badPhase (by simpa using hne)⟩

end Sys2Proof.Machine
end

section
/-!
SUPPORT. `XLATE`: the response is its only effect and is fixed by the walk; the walk faults at an unusable entry it
reaches, and ends at a terminal one with its base plus the offset (44_walker.md, rules R140, R149 and R152 to R155).
-/

namespace Sys2Proof.Machine

/-! ## The response -/

theorem WalkEnd.response_isResult (e : WalkEnd) : e.response.IsResult := by
  cases e with
  | ok pa => exact .inr ⟨pa, rfl⟩
  | fault cause => exact .inl rfl

theorem WalkEnd.response_eq_fault_iff (e : WalkEnd) : e.response = .fault ↔ ∃ cause, e = .fault cause := by
  cases e <;> simp [WalkEnd.response]

/-- States that differ by a newest response are equal only if the responses are. -/
theorem State.addResponse_inj {s : State} {r r' : Response} : s.addResponse r = s.addResponse r' ↔ r = r' := by
  refine ⟨fun h => ?_, congrArg _⟩
  have hresponses : s.responses ++ [r] = s.responses ++ [r'] := congrArg State.responses h
  exact List.singleton_inj.1 (List.append_cancel_left hresponses)

/-- In READY the response of `XLATE` is the one its walk delivers and no other. -/
theorem exec_xlate_eq_next_iff {s : State} (hready : s.phase = .ready) (va b : U64) (r : Response) :
    exec (.xlate va b) s = .next (s.addResponse r) ↔ (walk s.snap s.root va).ending.response = r := by
  rw [exec_xlate_of_ready hready, Host.Outcome.next.injEq, State.addResponse_inj]

/-- Settles O13: the walk's response is the loop's. -/
theorem xlateRespondsAsTheLoop : Obligations.XlateRespondsAsTheLoop :=
  fun va b s => ⟨decode_encode (.xlate va b),
    fun hready => (exec_xlate_eq_next_iff hready va b _).2 (walk_response_eq_specTranslate s.snap s.root va),
    fun hne => exec_badPhase (by simpa using hne)⟩

/-- Settles O26, by the two results a walk's end can be told as. -/
theorem xlateAlwaysResponds : Obligations.XlateAlwaysResponds := by
  intro s va b hready
  refine ⟨_, exec_xlate_of_ready hready va b, ?_⟩
  rcases (walk s.snap s.root va).ending.response_isResult with hfault | ⟨pa, hok⟩
  · rw [hfault]
    exact .inl ⟨rfl, nofun⟩
  · rw [hok]
    exact .inr ⟨nofun, pa, rfl, fun _ h => (Response.ok.inj h).symm⟩

/-! ## Unusable entries -/

/-- The spec's unusable entry is the one the presence test stops at (rules R114 and R181). -/
theorem unusableAt_iff (m : Memory) (a : U64) : UnusableAt m a ↔ ∃ why, usable (memRead m a) = .error why := by
  constructor
  · intro h
    rcases hread : memRead m a with _ | d
    · exact ⟨.absent, usable_none⟩
    · exact ⟨.notPresent, usable_notPresent ((presentBit_eq_false_iff d).2 (h d hread))⟩
  · rintro ⟨why, h⟩ d hread
    rw [← presentBit_eq_false_iff, Bool.eq_false_iff]
    intro hpresent
    rw [hread, usable_present hpresent] at h
    cases h

theorem unusableAt_or_usableAt (m : Memory) (a : U64) : UnusableAt m a ∨ ∃ d, UsableAt m a d := by
  rcases h : usable (memRead m a) with why | d
  · exact .inl ((unusableAt_iff m a).2 ⟨why, h⟩)
  · exact .inr ⟨d, (usableAt_iff m a d).2 h⟩

/-! ## Where a walk faults -/

/-- A usable entry that does not end the walk leads to one of the next level. -/
theorem Reaches.succ {m : Memory} {root va a d : U64} {k : Nat} (h : Reaches m root va k a) (husable : UsableAt m a d)
    (hcont : ¬EndsWalk k d) : Reaches m root va (k + 1) (specBase d + specIndex va (k + 1) * 8) := by
  obtain ⟨n, rfl⟩ := h.exists_eq_succ
  exact (reaches_succ_iff m root va n _).2 ⟨a, d, h, husable, hcont, rfl⟩

/-- The walk from a reached table on faults at a reached entry, for the cause it gives. -/
theorem exists_reaches_of_walkFrom_fault {m : Memory} {root va base : U64} {k : Level} {c : FaultCause}
    (hreach : Reaches m root va k.number (base + specIndex va k.number * 8))
    (h : (walkFrom m va k base).ending = .fault c) :
    ∃ a, Reaches m root va c.level.number a ∧ usable (memRead m a) = .error c.why := by
  induction k using Level.induction_from_leaf generalizing base with
  | level k ih =>
    rcases walkFrom_cases m va k base with ⟨why, hu⟩ | ⟨d, hu, hend⟩ | ⟨d, k', hu, hend, hnext⟩
    · rw [walkFrom_of_unusable hu] at h
      cases h
      exact ⟨_, hreach, hu⟩
    · rw [walkFrom_of_terminal hu hend] at h
      cases h
    · rw [walkFrom_of_next hu hend hnext] at h
      exact ih k' hnext (Level.number_of_next hnext ▸ hreach.succ hu hend) h

/-- An unusable entry that the walk reaches is where it faults, and why. -/
theorem walk_ending_of_unusable {m : Memory} {root va a : U64} {k : Nat} {why : Unusable}
    (hreach : Reaches m root va k a) (h : usable (memRead m a) = .error why) :
    ∃ l : Level, l.number = k ∧ (walk m root va).ending = .fault { level := l, why := why } := by
  obtain ⟨n, rfl⟩ := hreach.exists_eq_succ
  obtain ⟨l, base, hl, rfl, hending⟩ := walk_ending_of_reaches hreach
  exact ⟨l, hl, by rw [hending, walkFrom_of_unusable h]⟩

/-- Settles O18: a walk faults at an entry it reaches, and at every unusable entry it reaches. -/
theorem xlateFaultsExactlyOnUnusableEntry : Obligations.XlateFaultsExactlyOnUnusableEntry := by
  intro s va b hready
  refine (exec_xlate_eq_next_iff hready va b .fault).trans ?_
  rw [WalkEnd.response_eq_fault_iff]
  constructor
  · rintro ⟨c, hc⟩
    obtain ⟨a, hreach, hu⟩ := exists_reaches_of_walkFrom_fault (k := .one) .top hc
    exact ⟨c.level.number, a, hreach, (unusableAt_iff _ a).2 ⟨c.why, hu⟩⟩
  · rintro ⟨k, a, hreach, hunusable⟩
    obtain ⟨why, hu⟩ := (unusableAt_iff _ a).1 hunusable
    obtain ⟨l, _, hending⟩ := walk_ending_of_unusable hreach hu
    exact ⟨_, hending⟩

/-! ## Where a walk succeeds -/

/-- The address a terminal descriptor maps, written from natural numbers (rule R150). -/
theorem pageAddress_eq_ofNat (d va : U64) {shift : Nat} (h : shift ≤ 30) :
    pageAddress d va shift = BitVec.ofNat 64 (d.toNat / 2 ^ 12 % 2 ^ 40 * 2 ^ 12 + va.toNat % 2 ^ shift) := by
  rw [← tableBase_toNat, ← pageAddress_toNat d va h, BitVec.ofNat_toNat, BitVec.setWidth_eq]

/-- A usable descriptor that ends the walk is answered with its base plus the offset (rules R150, R152 and R153). -/
theorem exec_xlate_of_endsWalk {s : State} {va a d : U64} {k : Nat} (hready : s.phase = .ready)
    (hreach : Reaches s.snap s.root va k a) (husable : UsableAt s.snap a d) (hend : EndsWalk k d) (b : U64) :
    exec (.xlate va b) s = .next (s.addResponse
      (.ok (BitVec.ofNat 64 (d.toNat / 2 ^ 12 % 2 ^ 40 * 2 ^ 12 + va.toNat % 2 ^ specShift k)))) := by
  rw [exec_xlate_eq_next_iff hready, walk_ending_of_endsWalk hreach husable hend,
    pageAddress_eq_ofNat d va (specShift_le k)]
  rfl

/-- Settles O19: every usable descriptor of level 4 ends the walk, with shift 12. -/
theorem fourLevelChainTranslates : Obligations.FourLevelChainTranslates :=
  fun _ _ b _ _ hready hreach husable => exec_xlate_of_endsWalk hready hreach husable (.inl rfl) b

/-- Settles O20: at levels 2 and 3 bit 7 ends the walk, with shifts 30 and 21. -/
theorem largePagesTranslateByPlainSum : Obligations.LargePagesTranslateByPlainSum :=
  fun _ _ b _ _ hready husable hlarge =>
    ⟨fun hreach => exec_xlate_of_endsWalk hready hreach husable (.inr ⟨.inl rfl, hlarge⟩) b,
      fun hreach => exec_xlate_of_endsWalk hready hreach husable (.inr ⟨.inr rfl, hlarge⟩) b⟩

/-! ## The context of a run -/

/-- A reset event on the port is among the next events taken. -/
theorem OffersReset.mem_take {s : State} (h : OffersReset s) (k : Nat) : .reset ∈ s.port.take (k + 1) := by
  obtain ⟨rest, hport⟩ := h
  rw [hport]
  exact List.mem_cons_self

/-- From READY any number of steps with no reset event leave the block as it was (rules R22 and R53). -/
theorem run_next_of_ready {k : Nat} {s t : State} (hready : s.phase = .ready)
    (hreset : ∀ e ∈ s.port.take k, e ≠ .reset) (h : run k s = .next t) : ∃ q rs, t = s.withHost q rs := by
  induction k generalizing s with
  | zero =>
    cases h
    exact ⟨_, _, rfl⟩
  | succ k ih =>
    obtain ⟨u, hstep, hrun⟩ := run_succ_next.1 h
    have hport : u.port = s.port.tail := (eachOperationGivesOneResponse s u hstep).1
    obtain ⟨q, rs, rfl⟩ := step_next_of_ready hstep hready fun ho => hreset _ (ho.mem_take k) rfl
    have hreset' : ∀ e ∈ (s.withHost q rs).port.take k, e ≠ .reset := by
      rw [hport, ← List.drop_one, List.take_drop, Nat.add_comm]
      exact fun e he => hreset e (List.mem_of_mem_drop he)
    exact ih (s := s.withHost q rs) hready hreset' hrun

/-- Settles O25: the first clause from O24, the second since a run without a reset event keeps the context. -/
theorem xlateResponseIsFixedByContext : Obligations.XlateResponseIsFixedByContext := by
  constructor
  · intro s s' va va' b b' hready hready' hroot hread hva
    have hlow : va &&& 0x0000FFFFFFFFFFFF = va' &&& 0x0000FFFFFFFFFFFF := by
      apply BitVec.eq_of_toNat_eq
      rw [and_low48_toNat, and_low48_toNat, ← BitVec.toNat_setWidth, hva, BitVec.toNat_setWidth]
    exact ignoredBitsNeverMatter s s' va va' b b' hready hready' hroot (fun a => congrArg visible (hread a)) hlow
  · intro k s t va b b' hready hreset hrun
    obtain ⟨q, rs, rfl⟩ := run_next_of_ready hready hreset hrun
    exact ⟨_, exec_xlate_of_ready hready va b, exec_xlate_of_ready (s := s.withHost q rs) hready va b'⟩

end Sys2Proof.Machine
end

section
/-!
SUPPORT. The seven rows of rule R148: a walk meets one of them, and its lookups and its response tell which.
-/

namespace Sys2Proof.Machine

/-! ## The lookups and the response of a walk, level by level -/

/-- What rule R148's table says of a walk: its lookups and its response. -/
def Walk.Shows (w : Walk) (reads : List U64) (r : Response) : Prop := w.reads = reads ∧ w.ending.response = r

theorem shows_of_unusableAt {m : Memory} {va base : U64} {k : Level}
    (h : UnusableAt m (base + specIndex va k.number * 8)) :
    (walkFrom m va k base).Shows [base + specIndex va k.number * 8] .fault := by
  obtain ⟨why, hu⟩ := (unusableAt_iff ..).1 h
  rw [walkFrom_of_unusable hu]
  exact ⟨rfl, rfl⟩

theorem shows_of_endsWalk {m : Memory} {va base d : U64} {k : Level}
    (h : UsableAt m (base + specIndex va k.number * 8) d) (hend : EndsWalk k.number d) :
    (walkFrom m va k base).Shows [base + specIndex va k.number * 8]
      (.ok (specBase d + (va &&& BitVec.ofNat 64 (2 ^ specShift k.number - 1)))) := by
  rw [walkFrom_of_terminal h hend, pageAddress, tableBase_eq_specBase,
    pageOffset_eq_and va ((specShift_le k.number).trans_lt (by decide))]
  exact ⟨rfl, rfl⟩

theorem shows_of_next {m : Memory} {va base d : U64} {k k' : Level} {reads : List U64} {r : Response}
    (h : UsableAt m (base + specIndex va k.number * 8) d) (hcont : ¬EndsWalk k.number d) (hnext : k.next = some k')
    (hrest : (walkFrom m va k' (specBase d)).Shows reads r) :
    (walkFrom m va k base).Shows ((base + specIndex va k.number * 8) :: reads) r := by
  rw [walkFrom_of_next h hcont hnext]
  exact ⟨congrArg _ hrest.1, hrest.2⟩

/-- Level 1 never ends a walk with an address (rule R141). -/
theorem not_endsWalk_one (d : U64) : ¬EndsWalk 1 d := by simp [EndsWalk]

/-- Above the leaf a descriptor with bit 7 clear does not end the walk (rule R121). -/
theorem not_endsWalk_of_small {k : Nat} {d : U64} (hk : k ≠ 4) (hsmall : d &&& 0x80 = 0) : ¬EndsWalk k d := by
  rintro (rfl | ⟨_, hlarge⟩)
  · exact hk rfl
  · exact hlarge hsmall

/-! ## The rows -/

/-- A walk that meets a row makes the row's lookups and gives its response. -/
theorem ResultRow.walk_shows {m : Memory} {root va : U64} {k : Fin 7} {reads : List U64} {r : Response}
    (h : ResultRow m root va k reads r) : (walk m root va).Shows reads r := by
  have two {d : U64} (h : d &&& 0x80 = 0) : ¬EndsWalk 2 d := not_endsWalk_of_small (by decide) h
  have three {d : U64} (h : d &&& 0x80 = 0) : ¬EndsWalk 3 d := not_endsWalk_of_small (by decide) h
  rw [walk_eq_walkFrom]
  cases h with
  | fault1 h1 u1 =>
    subst h1
    exact shows_of_unusableAt u1
  | fault2 h1 u1 h2 u2 =>
    subst h1 h2
    exact shows_of_next u1 (not_endsWalk_one _) rfl (shows_of_unusableAt u2)
  | large2 h1 u1 h2 u2 l2 =>
    subst h1 h2
    exact shows_of_next u1 (not_endsWalk_one _) rfl (shows_of_endsWalk u2 (.inr ⟨.inl rfl, l2⟩))
  | fault3 h1 u1 h2 u2 l2 h3 u3 =>
    subst h1 h2 h3
    exact shows_of_next u1 (not_endsWalk_one _) rfl (shows_of_next u2 (two l2) rfl (shows_of_unusableAt u3))
  | large3 h1 u1 h2 u2 l2 h3 u3 l3 =>
    subst h1 h2 h3
    exact shows_of_next u1 (not_endsWalk_one _) rfl
      (shows_of_next u2 (two l2) rfl (shows_of_endsWalk u3 (.inr ⟨.inr rfl, l3⟩)))
  | fault4 h1 u1 h2 u2 l2 h3 u3 l3 h4 u4 =>
    subst h1 h2 h3 h4
    exact shows_of_next u1 (not_endsWalk_one _) rfl
      (shows_of_next u2 (two l2) rfl (shows_of_next u3 (three l3) rfl (shows_of_unusableAt u4)))
  | page4 h1 u1 h2 u2 l2 h3 u3 l3 h4 u4 =>
    subst h1 h2 h3 h4
    exact shows_of_next u1 (not_endsWalk_one _) rfl
      (shows_of_next u2 (two l2) rfl (shows_of_next u3 (three l3) rfl (shows_of_endsWalk u4 (.inl rfl))))

/-- The rows are exhaustive: at each level reached the entry is unusable, ends the walk, or leads on. -/
theorem exists_resultRow (m : Memory) (root va : U64) : ∃ k reads r, ResultRow m root va k reads r := by
  rcases unusableAt_or_usableAt m (root + specIndex va 1 * 8) with u1 | ⟨d1, u1⟩
  · exact ⟨_, _, _, .fault1 rfl u1⟩
  rcases unusableAt_or_usableAt m (specBase d1 + specIndex va 2 * 8) with u2 | ⟨d2, u2⟩
  · exact ⟨_, _, _, .fault2 rfl u1 rfl u2⟩
  by_cases l2 : d2 &&& 0x80 = 0
  case neg => exact ⟨_, _, _, .large2 rfl u1 rfl u2 l2⟩
  rcases unusableAt_or_usableAt m (specBase d2 + specIndex va 3 * 8) with u3 | ⟨d3, u3⟩
  · exact ⟨_, _, _, .fault3 rfl u1 rfl u2 l2 rfl u3⟩
  by_cases l3 : d3 &&& 0x80 = 0
  case neg => exact ⟨_, _, _, .large3 rfl u1 rfl u2 l2 rfl u3 l3⟩
  rcases unusableAt_or_usableAt m (specBase d3 + specIndex va 4 * 8) with u4 | ⟨d4, u4⟩
  · exact ⟨_, _, _, .fault4 rfl u1 rfl u2 l2 rfl u3 l3 rfl u4⟩
  · exact ⟨_, _, _, .page4 rfl u1 rfl u2 l2 rfl u3 l3 rfl u4⟩

/-- The number of the table's row, from how many lookups there are and whether the response is a Fault. -/
def rowNumber (reads : List U64) (r : Response) : Nat :=
  if r = .fault then 2 * reads.length - 3 else 2 * reads.length - 2

theorem ResultRow.val_eq_rowNumber {m : Memory} {root va : U64} {k : Fin 7} {reads : List U64} {r : Response}
    (h : ResultRow m root va k reads r) : k.val = rowNumber reads r := by
  cases h <;> rfl

/-- The rows are exclusive: all rows met show the one walk, and no two rows show the same. -/
theorem ResultRow.unique {m : Memory} {root va : U64} {k k' : Fin 7} {reads reads' : List U64} {r r' : Response}
    (h : ResultRow m root va k reads r) (h' : ResultRow m root va k' reads' r') : k = k' := by
  obtain ⟨hreads, hresp⟩ := h.walk_shows
  obtain ⟨hreads', hresp'⟩ := h'.walk_shows
  apply Fin.ext
  rw [h.val_eq_rowNumber, h'.val_eq_rowNumber, ← hreads, ← hresp, hreads', hresp']

/-- Settles O16. -/
theorem walkEndsInExactlyOneRow : Obligations.WalkEndsInExactlyOneRow := by
  intro s va b hready
  obtain ⟨k, reads, r, hrow⟩ := exists_resultRow s.snap s.root va
  refine ⟨⟨k, ⟨reads, r, hrow⟩, fun _ ⟨_, _, h⟩ => h.unique hrow⟩, fun _ _ _ h => ?_⟩
  obtain ⟨hreads, hresp⟩ := h.walk_shows
  exact ⟨hreads, (exec_xlate_eq_next_iff hready va b _).2 hresp⟩

end Sys2Proof.Machine
end

section
/-!
SUPPORT. Operations one after another, of any kind and in any order: what each writes and answers, when it is accepted,
and the run of a sequence of them (rules R74, R136, R170 and R188).
-/

namespace Sys2Proof.Machine

/-! ## What an operation writes -/

/-- What an operation, once accepted, leaves the block as; its response apart. -/
def State.write (s : State) : Instr → State
  | .ctxinit root n => s.initContext root n
  | .cellwr p v => s.storeCell p v
  | .xlate _ _ => s
  | .vadec _ _ => s
  | .pddec _ _ => s
  | .lpdet _ _ => s
  | .lookup _ _ => s

/-- What a sequence of accepted operations leaves the block as. -/
def State.writes (s : State) (is : List Instr) : State := is.foldl State.write s

@[simp] theorem State.write_ctxinit (s : State) (root n : U64) : s.write (.ctxinit root n) = s.initContext root n := rfl
@[simp] theorem State.write_cellwr (s : State) (p v : U64) : s.write (.cellwr p v) = s.storeCell p v := rfl

/-- The four kinds of operations that rule R170 tells apart. -/
theorem instr_kinds (i : Instr) :
    isPure i = true ∨ (∃ root n, i = .ctxinit root n) ∨ (∃ p v, i = .cellwr p v) ∨ isQuery i = true := by
  cases i with
  | vadec _ _ | pddec _ _ | lpdet _ _ => exact .inl rfl
  | ctxinit root n => exact .inr (.inl ⟨root, n, rfl⟩)
  | cellwr p v => exact .inr (.inr (.inl ⟨p, v, rfl⟩))
  | xlate _ _ | lookup _ _ => exact .inr (.inr (.inr rfl))

theorem isPure_of_isQuery {q : Instr} (h : isQuery q = true) : isPure q = false := by
  cases q with
  | xlate _ _ | lookup _ _ => rfl
  | ctxinit _ _ | cellwr _ _ | vadec _ _ | pddec _ _ | lpdet _ _ => cases h

/-- The levels of `LPDET` apart, every operand is legal (rule R186). -/
theorem wellFormed_of_not_isPure {i : Instr} (h : isPure i = false) : wellFormed i = true := by
  cases i with
  | ctxinit _ _ | cellwr _ _ | xlate _ _ | lookup _ _ => rfl
  | vadec _ _ | pddec _ _ | lpdet _ _ => cases h

theorem State.write_of_isPure {i : Instr} (h : isPure i = true) (s : State) : s.write i = s := by
  cases i with
  | vadec _ _ | pddec _ _ | lpdet _ _ => rfl
  | ctxinit _ _ | cellwr _ _ | xlate _ _ | lookup _ _ => cases h

theorem State.write_of_isQuery {q : Instr} (h : isQuery q = true) (s : State) : s.write q = s := by
  cases q with
  | xlate _ _ | lookup _ _ => rfl
  | ctxinit _ _ | cellwr _ _ | vadec _ _ | pddec _ _ | lpdet _ _ => cases h

theorem State.write_withHost (s : State) (p : List HostEvent) (rs : List Response) (i : Instr) :
    (s.withHost p rs).write i = (s.write i).withHost p rs := by cases i <;> rfl

theorem State.writes_withHost (s : State) (p : List HostEvent) (rs : List Response) (is : List Instr) :
    (s.withHost p rs).writes is = (s.writes is).withHost p rs := by
  induction is generalizing s with
  | nil => rfl
  | cons i is ih => rw [writes, List.foldl_cons, write_withHost, ← writes, ih]; rfl

/-- The pure operations write nothing (rule R25). -/
theorem State.writes_filter_not_isPure (s : State) (is : List Instr) :
    s.writes (is.filter (fun i => !isPure i)) = s.writes is := by
  induction is generalizing s with
  | nil => rfl
  | cons i is ih =>
    cases h : isPure i with
    | true => rw [List.filter_cons_of_neg (by simp [h]), ih, writes, writes, List.foldl_cons, write_of_isPure h]
    | false => rw [List.filter_cons_of_pos (by simp [h])]; exact ih (s.write i)

theorem State.writes_of_isQuery {queries : List Instr} (h : ∀ q ∈ queries, isQuery q = true) (s : State) :
    s.writes queries = s := by
  induction queries with
  | nil => rfl
  | cons q queries ih =>
    obtain ⟨hq, hqueries⟩ := List.forall_mem_cons.1 h
    rw [writes, List.foldl_cons, write_of_isQuery hq]
    exact ih hqueries

/-! ## What an operation answers -/

theorem results_cons (r : Response) (rs : List Response) : results (r :: rs) = results [r] ++ results rs := by
  cases r <;> rfl

theorem queriedAddresses_cons (i : Instr) (is : List Instr) :
    queriedAddresses (i :: is) = queriedAddresses [i] ++ queriedAddresses is := by
  cases i <;> rfl

/-- A result is what it is among others. -/
theorem results_of_isResult {r : Response} (h : r.IsResult) : results [r] = [r] := by
  obtain rfl | ⟨pa, rfl⟩ := h <;> rfl

/-- What the response `r` to `i` counts as among the results of a run (rule R175): nothing, where `i` asks for no
translation; else `i` is a query in READY, and `r` is the translation it asks for. -/
def AnswersAs (s : State) (i : Instr) (r : Response) : Prop :=
  queriedAddresses [i] = [] ∧ results [r] = [] ∨
    s.phase = .ready ∧ isQuery i = true ∧
      results [r] = (queriedAddresses [i]).map (specTranslate (memRead s.snap) s.root)

/-- An accepted operation writes what it has to and gives one response. -/
theorem exec_next_write {i : Instr} {s t : State} (h : exec i s = .next t) :
    ∃ r, t = (s.write i).addResponse r ∧ AnswersAs s i r := by
  rcases exec_next_cases h with ⟨_, _, rfl, _, rfl⟩ | ⟨_, _, rfl, _, _, rfl⟩ | ⟨va, b, rfl, hready, rfl⟩ |
    ⟨_, _, rfl, rfl⟩ | ⟨_, _, rfl, rfl⟩ | ⟨_, _, _, rfl, _, rfl⟩ | ⟨_, _, rfl, _, rfl⟩
  case inr.inr.inl =>
    refine ⟨_, rfl, .inr ⟨hready, rfl, ?_⟩⟩
    rw [results_of_isResult (WalkEnd.response_isResult _), walk_response_eq_specTranslate]
    rfl
  all_goals exact ⟨_, rfl, .inl ⟨rfl, rfl⟩⟩

/-! ## When an operation is accepted -/

/-- The conditions of rule R188, together: the phase, the operands, and the room for a new key. -/
def Accepts (s : State) (i : Instr) : Prop :=
  acceptedIn i s.phase = true ∧ wellFormed i = true ∧
    ∀ p v, i = .cellwr p v → ¬(memRead s.snap p = none ∧ atCapacity s = true)

theorem levelOf_ne_none_iff_wellFormed (raw level : U64) :
    levelOf level ≠ none ↔ wellFormed (.lpdet raw level) = true := by
  rw [wellFormed, decide_eq_true_iff]
  refine ⟨fun h => ?_, fun ⟨h₁, h₄⟩ => ?_⟩
  · by_contra hout
    exact h (levelOf_eq_none (by omega))
  · obtain ⟨k, hk⟩ := exists_levelOf h₁ h₄
    simp [hk]

theorem exists_exec_next_iff {i : Instr} {s : State} : (∃ t, exec i s = .next t) ↔ Accepts s i := by
  constructor
  · rintro ⟨t, h⟩
    have hphase : acceptedIn i s.phase = true := by
      by_contra hne
      rw [exec_badPhase (Bool.eq_false_iff.2 hne)] at h
      cases h
    refine ⟨hphase, ?_, ?_⟩
    · cases i with
      | lpdet raw level =>
        refine (levelOf_ne_none_iff_wellFormed raw level).1 fun hlevel => ?_
        rw [exec_lpdet_badLevel hlevel] at h
        cases h
      | ctxinit _ _ | cellwr _ _ | xlate _ _ | vadec _ _ | pddec _ _ | lookup _ _ => rfl
    · rintro p v rfl hfull
      rw [exec_cellwr_of_full (by simpa using hphase) hfull] at h
      cases h
  · rintro ⟨hphase, hwf, hroom⟩
    cases h : exec i s with
    | next t => exact ⟨t, rfl⟩
    | fault f => cases f
    | refused r =>
      rcases exec_refused_cases h with ⟨_, hne⟩ | ⟨_, raw, level, rfl, hlevel⟩ | ⟨_, _, p, v, rfl, hfull⟩
      · rw [hphase] at hne; cases hne
      · exact absurd hlevel ((levelOf_ne_none_iff_wellFormed raw level).2 hwf)
      · exact absurd hfull (hroom p v rfl)

theorem accepts_ctxinit {s : State} {root n : U64} : Accepts s (.ctxinit root n) ↔ s.phase = .empty := by
  simp [Accepts, wellFormed]

theorem accepts_cellwr {s : State} {p v : U64} :
    Accepts s (.cellwr p v) ↔ s.phase = .loading ∧ ¬(memRead s.snap p = none ∧ atCapacity s = true) := by
  simp [Accepts, wellFormed]

theorem accepts_of_isPure {s : State} {i : Instr} (h : isPure i = true) : Accepts s i ↔ wellFormed i = true := by
  cases i with
  | vadec _ _ | pddec _ _ | lpdet _ _ => simp [Accepts]
  | ctxinit _ _ | cellwr _ _ | xlate _ _ | lookup _ _ => cases h

theorem accepts_of_isQuery {s : State} {q : Instr} (h : isQuery q = true) : Accepts s q ↔ s.phase = .ready := by
  cases q with
  | xlate _ _ | lookup _ _ => simp [Accepts, wellFormed]
  | ctxinit _ _ | cellwr _ _ | vadec _ _ | pddec _ _ | lpdet _ _ => cases h

/-! ## The run of a sequence -/

/-- Each operation of the sequence is accepted after what those before it wrote. -/
def AcceptsAll (s : State) : List Instr → Prop
  | [] => True
  | i :: is => Accepts s i ∧ AcceptsAll (s.write i) is

@[simp] theorem acceptsAll_nil (s : State) : AcceptsAll s [] := trivial

theorem acceptsAll_cons {s : State} {i : Instr} {is : List Instr} :
    AcceptsAll s (i :: is) ↔ Accepts s i ∧ AcceptsAll (s.write i) is := Iff.rfl

theorem acceptsAll_withHost {s : State} {p : List HostEvent} {rs : List Response} {is : List Instr} :
    AcceptsAll (s.withHost p rs) is ↔ AcceptsAll s is := by
  induction is generalizing s with
  | nil => exact Iff.rfl
  | cons i is ih =>
    rw [acceptsAll_cons, acceptsAll_cons, State.write_withHost, ih]
    exact Iff.rfl

/-- The first step of a sequence on the port, where it answers next: the operation is accepted, and the block holds what
it wrote. -/
theorem step_next_of_commandsOf_cons {s u : State} {i : Instr} {is : List Instr} {rest : List HostEvent}
    (hport : s.port = commandsOf (i :: is) ++ rest) (h : step s = .next u) :
    ∃ r, u = (s.write i).withHost (commandsOf is ++ rest) (s.responses ++ [r]) ∧ AnswersAs s i r := by
  rw [step_of_commandsOf_cons hport] at h
  obtain ⟨r, rfl, hr⟩ := exec_next_write h
  refine ⟨r, ?_, hr⟩
  exact congrArg (State.addResponse · r) (State.write_withHost s _ s.responses i)

/-- A sequence on the port runs to its end exactly if each of its operations is accepted in its turn. -/
theorem exists_run_next_iff_acceptsAll {is : List Instr} {s : State} {rest : List HostEvent}
    (hport : s.port = commandsOf is ++ rest) : (∃ t, run is.length s = .next t) ↔ AcceptsAll s is := by
  induction is generalizing s with
  | nil => exact ⟨fun _ => trivial, fun _ => ⟨s, rfl⟩⟩
  | cons i is ih =>
    have hstep : (∃ u, step s = .next u) ↔ Accepts s i := by
      rw [step_of_commandsOf_cons hport]
      exact exists_exec_next_iff
    have hrest : ∀ u, step s = .next u → ((∃ t, run is.length u = .next t) ↔ AcceptsAll (s.write i) is) := by
      intro u hu
      obtain ⟨r, rfl, _⟩ := step_next_of_commandsOf_cons hport hu
      exact (ih rfl).trans acceptsAll_withHost
    simp only [List.length_cons, run_succ_next]
    rw [acceptsAll_cons, ← hstep]
    constructor
    · rintro ⟨t, u, hu, ht⟩
      exact ⟨⟨u, hu⟩, (hrest u hu).1 ⟨t, ht⟩⟩
    · rintro ⟨⟨u, hu⟩, hall⟩
      obtain ⟨t, ht⟩ := (hrest u hu).2 hall
      exact ⟨t, u, hu, ht⟩

theorem ne_reset_of_mem_commandsOf {is : List Instr} {e : HostEvent} (h : e ∈ commandsOf is) : e ≠ .reset := by
  obtain ⟨i, _, rfl⟩ := List.mem_map.1 h
  nofun

/-- From READY a sequence on the port leaves the context as it is. -/
theorem run_commandsOf_of_ready {is : List Instr} {s t : State} {rest : List HostEvent}
    (hport : s.port = commandsOf is ++ rest) (hready : s.phase = .ready) (h : run is.length s = .next t) :
    t.snap = s.snap ∧ t.root = s.root := by
  have htake : s.port.take is.length = commandsOf is := by
    rw [hport]
    exact List.take_left' (List.length_map _)
  obtain ⟨q, rs, rfl⟩ := run_next_of_ready hready (fun e he => ne_reset_of_mem_commandsOf (htake ▸ he)) h
  exact ⟨rfl, rfl⟩

/-- A sequence that runs to its end leaves what its operations write, and gives one response each; the results among
them are the translations in the context at the end, since no operation after an `XLATE` writes it. -/
theorem run_commandsOf_next {is : List Instr} {s t : State} {rest : List HostEvent}
    (hport : s.port = commandsOf is ++ rest) (h : run is.length s = .next t) :
    ∃ rs, t = (s.writes is).withHost rest (s.responses ++ rs) ∧ rs.length = is.length ∧
      results rs = (queriedAddresses is).map (specTranslate (memRead t.snap) t.root) := by
  induction is generalizing s with
  | nil =>
    cases h
    have hrest : t.port = rest := hport
    exact ⟨[], by rw [List.append_nil, ← hrest]; rfl, rfl, rfl⟩
  | cons i is ih =>
    obtain ⟨u, hu, hrun⟩ := run_succ_next.1 h
    obtain ⟨r, rfl, hr⟩ := step_next_of_commandsOf_cons hport hu
    obtain ⟨rs, ht, hlen, hresults⟩ := ih rfl hrun
    refine ⟨r :: rs, ?_, congrArg (· + 1) hlen, ?_⟩
    · rw [ht, State.writes_withHost, State.withHost_responses, List.append_assoc]
      rfl
    · rw [results_cons, queriedAddresses_cons, List.map_append, hresults]
      congr 1
      rcases hr with ⟨hnone, hr⟩ | ⟨hready, hquery, hr⟩
      · rw [hr, hnone]
        rfl
      · rw [State.write_of_isQuery hquery] at hrun
        obtain ⟨hsnap, hroot⟩ := run_commandsOf_of_ready (s := s.withHost _ _) rfl hready hrun
        rw [hr, hsnap, hroot]
        rfl

end Sys2Proof.Machine
end

section
/-!
SUPPORT. The sequences that run without a refusal are the beginnings of well-formed runs (45_query_stream.md, rules R170,
R74, R136 and R213).
-/

namespace Sys2Proof.Machine

/-! ## Rule R170's form, from the cells on -/

/-- Rule R170's form of a sequence without its pure operations, where `n` cells are still to come. -/
def LoadsThenQueries (n : Nat) (js : List Instr) : Prop :=
  ∃ cells queries, js = cells ++ queries ∧ (∀ c ∈ cells, isCell c = true) ∧ (∀ q ∈ queries, isQuery q = true) ∧
    (cells.length = n ∨ cells.length < n ∧ queries = [])

/-- Rule R170's form of a sequence without its pure operations. -/
def BeginsContext (js : List Instr) : Prop :=
  js = [] ∨ ∃ root n rest, js = .ctxinit root n :: rest ∧ LoadsThenQueries n.toNat rest

theorem beginsWellFormedRun_iff (is : List Instr) :
    BeginsWellFormedRun is ↔
      (∀ i ∈ is, wellFormed i = true) ∧ BeginsContext (is.filter (fun i => !isPure i)) := by
  refine and_congr_right fun _ => or_congr_right ?_
  constructor
  · rintro ⟨root, n, cells, queries, heq, hform⟩
    exact ⟨root, n, _, heq, cells, queries, rfl, hform⟩
  · rintro ⟨root, n, _, heq, cells, queries, rfl, hform⟩
    exact ⟨root, n, cells, queries, heq, hform⟩

theorem loadsThenQueries_nil (n : Nat) : LoadsThenQueries n [] :=
  ⟨[], [], rfl, nofun, nofun, (Nat.eq_zero_or_pos n).imp Eq.symm fun h => ⟨h, rfl⟩⟩

/-- Next is a cell, which counts against those to come, or, once all are in, a query; nothing else. -/
theorem loadsThenQueries_cons {n : Nat} {j : Instr} {js : List Instr} :
    LoadsThenQueries n (j :: js) ↔
      isCell j = true ∧ n ≠ 0 ∧ LoadsThenQueries (n - 1) js ∨ isQuery j = true ∧ n = 0 ∧ LoadsThenQueries n js := by
  constructor
  · rintro ⟨_ | ⟨c, cells⟩, queries, heq, hcells, hqueries, hlen⟩
    · obtain rfl : j :: js = queries := heq
      obtain ⟨hj, hjs⟩ := List.forall_mem_cons.1 hqueries
      have hn : 0 = n := hlen.resolve_right fun hlt => List.cons_ne_nil j js hlt.2
      exact .inr ⟨hj, hn.symm, [], js, rfl, nofun, hjs, .inl hn⟩
    · obtain ⟨rfl, rfl⟩ := List.cons.inj heq
      obtain ⟨hj, hcells⟩ := List.forall_mem_cons.1 hcells
      rw [List.length_cons] at hlen
      exact .inl ⟨hj, by omega, cells, queries, rfl, hcells, hqueries, hlen.imp (by omega) (And.imp_left (by omega))⟩
  · rintro (⟨hj, hn, cells, queries, rfl, hcells, hqueries, hlen⟩ |
      ⟨hj, rfl, cells, queries, rfl, hcells, hqueries, hlen⟩)
    · refine ⟨j :: cells, queries, rfl, List.forall_mem_cons.2 ⟨hj, hcells⟩, hqueries, ?_⟩
      rw [List.length_cons]
      exact hlen.imp (by omega) (And.imp_left (by omega))
    · obtain rfl : cells = [] := List.length_eq_zero_iff.1 (by omega)
      exact ⟨[], j :: queries, rfl, nofun, List.forall_mem_cons.2 ⟨hj, hqueries⟩, .inl rfl⟩

theorem loadsThenQueries_cellwr_cons {n : Nat} {p v : U64} {js : List Instr} :
    LoadsThenQueries n (.cellwr p v :: js) ↔ n ≠ 0 ∧ LoadsThenQueries (n - 1) js := by
  simp [loadsThenQueries_cons, isCell, isQuery]

theorem loadsThenQueries_query_cons {n : Nat} {q : Instr} (h : isQuery q = true) {js : List Instr} :
    LoadsThenQueries n (q :: js) ↔ n = 0 ∧ LoadsThenQueries n js := by
  have hcell : isCell q = false := by
    cases q with
    | xlate _ _ | lookup _ _ => rfl
    | ctxinit _ _ | cellwr _ _ | vadec _ _ | pddec _ _ | lpdet _ _ => cases h
  simp [loadsThenQueries_cons, h, hcell]

theorem not_loadsThenQueries_ctxinit_cons {n : Nat} {root count : U64} {js : List Instr} :
    ¬LoadsThenQueries n (.ctxinit root count :: js) := by
  simp [loadsThenQueries_cons, isCell, isQuery]

theorem beginsContext_cons {j : Instr} {js : List Instr} :
    BeginsContext (j :: js) ↔ ∃ root n, j = .ctxinit root n ∧ LoadsThenQueries n.toNat js := by
  constructor
  · rintro (hnil | ⟨root, n, _, heq, hloads⟩)
    · cases hnil
    · obtain ⟨rfl, rfl⟩ := List.cons.inj heq
      exact ⟨root, n, rfl, hloads⟩
  · rintro ⟨root, n, rfl, hloads⟩
    exact .inr ⟨root, n, js, rfl, hloads⟩

/-! ## The keys written -/

theorem writtenKeys_cons_of_isPure {i : Instr} (h : isPure i = true) (is : List Instr) :
    writtenKeys (i :: is) = writtenKeys is := by
  cases i with
  | vadec _ _ | pddec _ _ | lpdet _ _ => rfl
  | ctxinit _ _ | cellwr _ _ | xlate _ _ | lookup _ _ => cases h

theorem writtenKeys_cons_of_isQuery {q : Instr} (h : isQuery q = true) (is : List Instr) :
    writtenKeys (q :: is) = writtenKeys is := by
  cases q with
  | xlate _ _ | lookup _ _ => rfl
  | ctxinit _ _ | cellwr _ _ | vadec _ _ | pddec _ _ | lpdet _ _ => cases h

/-- From an empty snapshot, room is rule R213's premise. -/
theorem hasRoom_iff_holdsDistinct {s : State} (hsnap : s.snap = []) {keys : List U64} :
    HasRoom s keys ↔ HoldsDistinct s keys := by
  refine ⟨fun h c hc => ?_, HasRoom.of_holdsDistinct hsnap⟩
  have hle := h c hc
  simpa [hsnap, newKeys, memSize] using hle

/-- A key has room, and the others after it, exactly if its write is not refused and they have room after it. -/
theorem hasRoom_cons_iff {s : State} (hwf : s.snap.wf = true) {p : U64} {keys : List U64} (v : U64) :
    HasRoom s (p :: keys) ↔
      ¬(memRead s.snap p = none ∧ atCapacity s = true) ∧ HasRoom (s.storeCell p v) keys := by
  refine ⟨fun h => ⟨h.not_full, h.storeCell hwf v⟩, fun h c hc => ?_⟩
  rw [← memSize_add_newKeys_memWrite hwf p v]
  exact h.2 c hc

/-! ## Which sequences are accepted -/

/-- The context is there: accepted are the cells still to come, as far as there is room for their keys, and queries once
all are in. -/
theorem acceptsAll_iff_of_phaseAfter {is : List Instr} {s : State} (hs : Consistent s)
    (hphase : s.phase = phaseAfter s.remain) :
    AcceptsAll s is ↔ (∀ i ∈ is, wellFormed i = true) ∧
      LoadsThenQueries s.remain.toNat (is.filter (fun i => !isPure i)) ∧ HasRoom s (writtenKeys is) := by
  induction is generalizing s with
  | nil =>
    have hroom : HasRoom s [] := hs.withinCapacity
    simpa [writtenKeys, loadsThenQueries_nil] using hroom
  | cons i is ih =>
    rw [acceptsAll_cons, List.forall_mem_cons]
    rcases instr_kinds i with hpure | ⟨root, n, rfl⟩ | ⟨p, v, rfl⟩ | hquery
    · rw [accepts_of_isPure hpure, State.write_of_isPure hpure, ih hs hphase,
        List.filter_cons_of_neg (by simp [hpure]), writtenKeys_cons_of_isPure hpure, and_assoc]
    · rw [accepts_ctxinit, List.filter_cons_of_pos rfl]
      have hne : s.phase ≠ .empty := hphase ▸ phaseAfter_ne_empty _
      simp [hne, not_loadsThenQueries_ctxinit_cons]
    · have hwf : wellFormed (.cellwr p v) = true := rfl
      have hzero : s.remain ≠ 0 ↔ s.remain.toNat ≠ 0 := by bv_omega
      rw [accepts_cellwr, hphase, phaseAfter_eq_loading_iff, hzero, List.filter_cons_of_pos rfl,
        loadsThenQueries_cellwr_cons, writtenKeys, hasRoom_cons_iff hs.canonical v, hwf, State.write_cellwr]
      by_cases hok : s.remain.toNat ≠ 0 ∧ ¬(memRead s.snap p = none ∧ atCapacity s = true)
      · have hcount : (s.remain - 1).toNat = s.remain.toNat - 1 := by bv_omega
        rw [ih (hs.storeCell hok.2 v) rfl, State.storeCell_remain, hcount]
        tauto
      · tauto
    · have hzero : phaseAfter s.remain = .ready ↔ s.remain.toNat = 0 := by
        rw [phaseAfter_eq_ready_iff]; bv_omega
      have hwf := wellFormed_of_not_isPure (isPure_of_isQuery hquery)
      rw [accepts_of_isQuery hquery, State.write_of_isQuery hquery, ih hs hphase, hphase, hzero,
        List.filter_cons_of_pos (by simp [isPure_of_isQuery hquery]), loadsThenQueries_query_cons hquery,
        writtenKeys_cons_of_isQuery hquery, hwf]
      tauto

/-- Before there is a context: accepted are pure operations and one `CTXINIT`, and after it what its context accepts. -/
theorem acceptsAll_iff_of_empty {is : List Instr} {s : State} (hempty : s.phase = .empty) (hsnap : s.snap = []) :
    AcceptsAll s is ↔ (∀ i ∈ is, wellFormed i = true) ∧
      BeginsContext (is.filter (fun i => !isPure i)) ∧ HoldsDistinct s (writtenKeys is) := by
  induction is with
  | nil =>
    have hroom : HoldsDistinct s [] := fun c _ => Nat.zero_le c
    simpa [writtenKeys, BeginsContext] using hroom
  | cons i is ih =>
    rw [acceptsAll_cons, List.forall_mem_cons]
    rcases instr_kinds i with hpure | ⟨root, n, rfl⟩ | ⟨p, v, rfl⟩ | hquery
    · rw [accepts_of_isPure hpure, State.write_of_isPure hpure, ih,
        List.filter_cons_of_neg (by simp [hpure]), writtenKeys_cons_of_isPure hpure, and_assoc]
    · have hs : Consistent (s.initContext root n) :=
        .of_phaseAfter rfl (congrArg Memory.wf hsnap) fun c _ => (congrArg memSize hsnap).trans_le (Nat.zero_le c)
      have hroom : HasRoom (s.initContext root n) (writtenKeys is) ↔ HoldsDistinct s (writtenKeys is) :=
        hasRoom_iff_holdsDistinct hsnap
      rw [accepts_ctxinit, State.write_ctxinit, acceptsAll_iff_of_phaseAfter hs rfl, hroom,
        List.filter_cons_of_pos rfl]
      simp [hempty, beginsContext_cons, writtenKeys, wellFormed]
    · rw [accepts_cellwr, List.filter_cons_of_pos rfl]
      simp [hempty, beginsContext_cons]
    · rw [accepts_of_isQuery hquery, List.filter_cons_of_pos (by simp [isPure_of_isQuery hquery]), beginsContext_cons]
      have hne : ∀ root n, i ≠ .ctxinit root n := by rintro root n rfl; cases hquery
      simp [hempty, hne]

/-- Settles O47: a run goes to its end exactly if each operation is accepted in its turn. -/
theorem unrefusedRunsAreTheWellFormed : Obligations.UnrefusedRunsAreTheWellFormed := by
  intro is s rest hempty hsnap hport
  rw [exists_run_next_iff_acceptsAll hport, acceptsAll_iff_of_empty hempty hsnap, beginsWellFormedRun_iff, and_assoc]

end Sys2Proof.Machine
end

section
/-!
SUPPORT. The run of a whole well-formed run: the context it leaves and its results (45_query_stream.md, rule R175).
-/

namespace Sys2Proof.Machine

/-! ## The keys of a well-formed run -/

theorem writtenKeys_filter_not_isPure (is : List Instr) :
    writtenKeys (is.filter (fun i => !isPure i)) = writtenKeys is := by
  induction is with
  | nil => rfl
  | cons i is ih =>
    cases h : isPure i with
    | true => rw [List.filter_cons_of_neg (by simp [h]), ih, writtenKeys_cons_of_isPure h]
    | false =>
      rw [List.filter_cons_of_pos (by simp [h])]
      cases i <;> simp [writtenKeys, ih]

theorem writtenKeys_of_isQuery {queries : List Instr} (h : ∀ q ∈ queries, isQuery q = true) :
    writtenKeys queries = [] := by
  induction queries with
  | nil => rfl
  | cons q queries ih =>
    obtain ⟨hq, hqueries⟩ := List.forall_mem_cons.1 h
    rw [writtenKeys_cons_of_isQuery hq, ih hqueries]

theorem writtenKeys_cells_append (cells : List (U64 × U64)) (is : List Instr) :
    writtenKeys (cells.map (fun c => .cellwr c.1 c.2) ++ is) = cells.map Prod.fst ++ writtenKeys is := by
  induction cells with
  | nil => rfl
  | cons c cells ih => rw [List.map_cons, List.cons_append, writtenKeys, ih]; rfl

/-! ## The context it leaves -/

/-- What the cells of a load write is what their run leaves. -/
theorem loadedBy_writes {cells : List (U64 × U64)} {s : State} (hwf : s.snap.wf = true)
    (hphase : s.phase = phaseAfter s.remain) (hlen : cells.length ≤ s.remain.toNat)
    (hroom : HasRoom s (cells.map Prod.fst)) :
    ∃ q rs, LoadedBy cells [] (s.withHost q []) ((s.writes (cells.map (fun c => .cellwr c.1 c.2))).withHost [] rs) := by
  obtain ⟨t, hrun, ht⟩ := run_cells cells (s := s.withHost (commandsOf _ ++ []) []) hwf hphase hlen hroom rfl
  rw [← List.length_map (fun c : U64 × U64 => Instr.cellwr c.1 c.2)] at hrun
  obtain ⟨rs, rfl, _, _⟩ := run_commandsOf_next rfl hrun
  rw [State.writes_withHost] at ht
  exact ⟨_, _, ht⟩

/-- A well-formed run writes its root and its cells; the pure operations and the queries write nothing. -/
theorem writes_of_wellFormedRun {is queries : List Instr} {root n : U64} {cells : List (U64 × U64)} {s : State}
    (hsnap : s.snap = []) (hkeys : HoldsDistinct s (cells.map Prod.fst))
    (hform : is.filter (fun i => !isPure i) = .ctxinit root n :: (cells.map (fun c => .cellwr c.1 c.2) ++ queries))
    (hlen : cells.length = n.toNat) (hqueries : ∀ q ∈ queries, isQuery q = true) :
    (s.writes is).phase = .ready ∧ (s.writes is).root = root ∧ (s.writes is).remain = 0 ∧
      memRead (s.writes is).snap = lastWrite cells := by
  have hroom : HasRoom (s.initContext root n) (cells.map Prod.fst) := HasRoom.of_holdsDistinct hsnap hkeys
  obtain ⟨q, rs, hload⟩ := loadedBy_writes (s := s.initContext root n) (congrArg Memory.wf hsnap) rfl hlen.le hroom
  have hwrites : s.writes is = (s.initContext root n).writes (cells.map (fun c => .cellwr c.1 c.2)) := by
    rw [← State.writes_filter_not_isPure, hform, State.writes, List.foldl_cons, List.foldl_append, State.write_ctxinit]
    exact State.writes_of_isQuery hqueries _
  rw [← hwrites] at hload
  have hremain : (s.writes is).remain = 0 := by
    have hsum : (s.writes is).remain.toNat + cells.length = n.toNat := hload.remain
    bv_omega
  have hphase : (s.writes is).phase = phaseAfter (s.writes is).remain := hload.phase
  refine ⟨by rw [hphase, hremain, phaseAfter_zero], hload.root, hremain, funext fun p => ?_⟩
  simpa [hsnap] using hload.reads p

/-- Settles O45: the run goes to its end by O47, and leaves what its `CTXINIT` and its cells write. -/
theorem runIsFunctionOfRootCellsAndQueries : Obligations.RunIsFunctionOfRootCellsAndQueries := by
  intro is root n cells queries s rest hempty hsnap hkeys hwf hform hlen hqueries hport
  have hwritten : writtenKeys is = cells.map Prod.fst := by
    rw [← writtenKeys_filter_not_isPure, hform, writtenKeys, writtenKeys_cells_append, writtenKeys_of_isQuery hqueries,
      List.append_nil]
  have hbegins : BeginsWellFormedRun is :=
    ⟨hwf, .inr ⟨root, n, _, queries, hform, List.forall_mem_map.2 fun _ _ => rfl, hqueries,
      .inl ((List.length_map _).trans hlen)⟩⟩
  obtain ⟨t, hrun⟩ := (unrefusedRunsAreTheWellFormed is s rest hempty hsnap hport).2 ⟨hbegins, hwritten ▸ hkeys⟩
  obtain ⟨rs, rfl, hcount, hresults⟩ := run_commandsOf_next hport hrun
  obtain ⟨hphase, hroot, hremain, hreads⟩ := writes_of_wellFormedRun hsnap hkeys hform hlen hqueries
  rw [State.withHost_snap, State.withHost_root, hreads, hroot] at hresults
  exact ⟨_, rs, hrun, hphase, hroot, hremain, congrFun hreads, rfl, rfl, hcount, hresults⟩

end Sys2Proof.Machine
end

section
/-!
SUPPORT. The exception: a walk that faults has one cause, which says at which reached entry it stopped and why
(60_exceptions.md, rules R180 and R181).
-/

namespace Sys2Proof.Machine

/-- Why the presence test stops (rules R114 and R181). -/
theorem usable_eq_error_iff (cell : Option U64) (why : Unusable) :
    usable cell = .error why ↔
      (why = .absent ∧ cell = none) ∨ (why = .notPresent ∧ ∃ d, cell = some d ∧ d &&& 1 = 0) := by
  simp only [← presentBit_eq_false_iff]
  cases cell with
  | none => simp [usable_none, eq_comm (a := Unusable.absent)]
  | some d =>
    cases hp : presentBit d with
    | false => simp [usable_notPresent hp, hp, eq_comm (a := Unusable.notPresent)]
    | true => simp [usable_present hp, hp]

/-- Each walk level has a number of its own (rule R11), which is the operand that names it (rule R120). -/
theorem levelOf_number (k : Level) : levelOf (BitVec.ofNat 64 k.number) = some k := by
  cases k <;> rfl

theorem Level.number_injective : Function.Injective Level.number := by
  intro k k' h
  rw [← Option.some_inj, ← levelOf_number k, h, levelOf_number k']

/-- A walk ends with a cause exactly where it reaches an entry of the cause's level that is unusable for its reason. -/
theorem walk_ending_eq_fault_iff (m : Memory) (root va : U64) (c : FaultCause) :
    (walk m root va).ending = .fault c ↔
      ∃ a, Reaches m root va c.level.number a ∧ usable (memRead m a) = .error c.why := by
  constructor
  · exact exists_reaches_of_walkFrom_fault (k := .one) .top
  · rintro ⟨a, hreach, hu⟩
    obtain ⟨l, hl, hending⟩ := walk_ending_of_unusable hreach hu
    rw [hending, Level.number_injective hl]

/-- A walk that has a cause has one only: it ends in one way. -/
theorem WalkEnd.response_eq_fault_iff_existsUnique (e : WalkEnd) : e.response = .fault ↔ ∃! c, e = .fault c := by
  rw [WalkEnd.response_eq_fault_iff]
  refine ⟨fun ⟨c, hc⟩ => ⟨c, hc, fun c' hc' => ?_⟩, ExistsUnique.exists⟩
  exact WalkEnd.fault.inj (hc'.symm.trans hc)

/-- Settles O17: the walk ends in one way, and in a Fault exactly at a reached entry that the presence test stops at. -/
theorem faultHasExactlyItsCause : Obligations.FaultHasExactlyItsCause := by
  intro s va b hready
  refine ⟨(exec_xlate_eq_next_iff hready va b .fault).trans (WalkEnd.response_eq_fault_iff_existsUnique _), fun c => ?_⟩
  simp only [walk_ending_eq_fault_iff, usable_eq_error_iff]

end Sys2Proof.Machine
end

section
/-!
SUPPORT. The refusals: the conditions of rule R188, for an operation and for a step (60_exceptions.md).
-/

namespace Sys2Proof.Machine

/-- The levels that `LPDET` has no meaning for (rule R120). -/
theorem levelOf_eq_none_iff (level : U64) : levelOf level = none ↔ level.toNat < 1 ∨ 4 < level.toNat := by
  refine ⟨fun h => ?_, levelOf_eq_none⟩
  by_contra hlegal
  obtain ⟨k, hk⟩ := exists_levelOf (level := level) (by omega) (by omega)
  rw [hk] at h
  cases h

/-- The three refusals of an operation, each in its case and in no other (rule R188). -/
theorem exec_refused_iff {i : Instr} {s : State} {r : Refusal} :
    exec i s = .refused r ↔
      (r = .badPhase ∧ acceptedIn i s.phase = false) ∨
      (r = .badLevel ∧ ∃ raw level, i = .lpdet raw level ∧ levelOf level = none) ∨
      (r = .capacity ∧ s.phase = .loading ∧ ∃ p v, i = .cellwr p v ∧
        memRead s.snap p = none ∧ atCapacity s = true) := by
  refine ⟨exec_refused_cases, ?_⟩
  rintro (⟨rfl, hphase⟩ | ⟨rfl, raw, level, rfl, hlevel⟩ | ⟨rfl, hphase, p, v, rfl, hfull⟩)
  · exact exec_badPhase hphase
  · exact exec_lpdet_badLevel hlevel raw s
  · exact exec_cellwr_of_full hphase hfull v

/-- Whether an operation is refused does not depend on what the host sends after it (rule R25). -/
theorem exec_withPort_refused_iff {i : Instr} {s : State} {rest : List HostEvent} {r : Refusal} :
    exec i (s.withPort rest) = .refused r ↔ exec i s = .refused r :=
  ⟨fun h => exec_refused_withHost h s.port s.responses, fun h => exec_refused_withHost h rest s.responses⟩

/-- The reserved codes of rule R73 are those the decoder rejects. -/
theorem offersReserved_iff (s : State) :
    OffersReserved s ↔ ∃ w rest, s.port = .command w :: rest ∧ decode w = .error .reservedOp := by
  simp only [OffersReserved, decode_reservedOp_iff, opField_toNat_eq_ushiftRight]

/-- A step is refused by the decoder, or by the operation it takes. -/
theorem step_refused_iff {s : State} {r : Refusal} :
    step s = .refused r ↔ (r = .reservedOp ∧ OffersReserved s) ∨ ∃ i, Offers s i ∧ exec i s = .refused r := by
  rw [offersReserved_iff]
  constructor
  · intro h
    rcases fetch_cases s with ⟨_, hf⟩ | ⟨_, _, hf⟩ | ⟨w, rest, i, hport, hd, _⟩ | ⟨w, rest, hport, hd, hf⟩
    · simp only [step, hf, waitForHost] at h
      cases h
    · simp only [step, hf] at h
      cases h
    · rw [step_of_command hport hd] at h
      exact .inr ⟨i, ⟨w, rest, hport, hd⟩, exec_withPort_refused_iff.1 h⟩
    · simp only [step, hf] at h
      cases h
      exact .inl ⟨rfl, w, rest, hport, hd⟩
  · rintro (⟨rfl, w, rest, hport, hd⟩ | ⟨i, ⟨w, rest, hport, hd⟩, h⟩)
    · simp only [step, fetch_of_reserved hport hd]
    · rw [step_of_command hport hd]
      exact exec_withPort_refused_iff.2 h

/-- Settles O37: the decoder's refusal is the first case, and the offered operation's three are the others. -/
theorem refusalsAreExactlyThoseListed : Obligations.RefusalsAreExactlyThoseListed := by
  intro s r
  rw [step_refused_iff]
  refine or_congr_right ?_
  constructor
  · rintro ⟨i, ho, h⟩
    rcases exec_refused_iff.1 h with ⟨rfl, hphase⟩ | ⟨rfl, raw, level, rfl, hlevel⟩ |
      ⟨rfl, hphase, p, v, rfl, hnew, hfull⟩
    · exact .inl ⟨rfl, i, ho, hphase⟩
    · exact .inr (.inl ⟨rfl, raw, level, ho, (levelOf_eq_none_iff level).1 hlevel⟩)
    · exact .inr (.inr ⟨rfl, hphase, p, v, ho, hnew, (atCapacity_iff s).1 hfull⟩)
  · rintro (⟨rfl, i, ho, hphase⟩ | ⟨rfl, raw, level, ho, hlevel⟩ | ⟨rfl, hphase, p, v, ho, hnew, hfull⟩)
    · exact ⟨i, ho, exec_refused_iff.2 (.inl ⟨rfl, hphase⟩)⟩
    · exact ⟨_, ho, exec_refused_iff.2 (.inr (.inl ⟨rfl, raw, level, rfl, (levelOf_eq_none_iff level).2 hlevel⟩))⟩
    · exact ⟨_, ho, exec_refused_iff.2 (.inr (.inr ⟨rfl, hphase, p, v, rfl, hnew, (atCapacity_iff s).2 hfull⟩))⟩

end Sys2Proof.Machine
end

section
/-!
SUPPORT. Reset, waiting for the host, and what the order of operations cannot change (70_reset_and_hazards.md): the
context in READY, and the order of two cells with different addresses.
-/

namespace Sys2Proof.Machine

/-! ## Reset and waiting -/

/-- The reset event is taken whatever the state (rule R200). -/
theorem step_of_reset {s : State} {rest : List HostEvent} (h : s.port = .reset :: rest) :
    step s = .next (s.withPort rest).applyReset := by
  simp only [step, fetch_of_reset h]

/-- With nothing on the port the block waits (rule R202). -/
theorem step_of_nil {s : State} (h : s.port = []) : step s = .next s := by
  simp only [step, fetch_of_nil h, waitForHost]

/-! ## The responses of a run -/

/-- A step takes no response away and gives at most one (rule R72). -/
theorem step_next_responses {s t : State} (h : step s = .next t) :
    ∃ rs, t.responses = s.responses ++ rs ∧ rs.length ≤ 1 := by
  obtain ⟨_, ⟨_, r, _, _, hone⟩ | ⟨_, hnone⟩⟩ := eachOperationGivesOneResponse s t h
  · exact ⟨[r], hone, le_rfl⟩
  · exact ⟨[], by rw [hnone, List.append_nil], Nat.zero_le 1⟩

/-- A run takes no response away and gives at most one for each step. -/
theorem run_next_responses {k : Nat} {s t : State} (h : run k s = .next t) :
    ∃ rs, t.responses = s.responses ++ rs ∧ rs.length ≤ k := by
  induction k generalizing s with
  | zero =>
    cases h
    exact ⟨[], (List.append_nil _).symm, le_rfl⟩
  | succ k ih =>
    obtain ⟨u, hstep, hrun⟩ := run_succ_next.1 h
    obtain ⟨rs, hrs, hlen⟩ := step_next_responses hstep
    obtain ⟨rs', hrs', hlen'⟩ := ih hrun
    refine ⟨rs ++ rs', by rw [hrs', hrs, List.append_assoc], ?_⟩
    rw [List.length_append]
    omega

/-! ## Two cells in either order -/

/-- Writes to different addresses may change places: the two snapshots are canonical and read alike. -/
theorem memWrite_comm {m : Memory} (hm : m.wf = true) {p q : U64} (hne : p ≠ q) (v w : U64) :
    memWrite (memWrite m p v) q w = memWrite (memWrite m q w) p v := by
  refine canonicalSnapshotsThatReadAlikeAreEqual _ _ (memWrite_wf (memWrite_wf hm p v) q w)
    (memWrite_wf (memWrite_wf hm q w) p v) (fun a => ?_)
  simp only [memRead_memWrite]
  split
  · next hq => rw [if_neg (hq ▸ hne.symm)]
  · rfl

theorem State.storeCell_comm {s : State} (hwf : s.snap.wf = true) {p q : U64} (hne : p ≠ q) (v w : U64) :
    (s.storeCell p v).storeCell q w = (s.storeCell q w).storeCell p v := by
  have hsnap := memWrite_comm hwf hne v w
  simp only [State.storeCell, hsnap]

/-- The room that keys need is the same in any order (rule R213 counts the distinct ones). -/
theorem HasRoom.perm {s : State} {keys keys' : List U64} (h : HasRoom s keys) (hperm : keys.Perm keys') :
    HasRoom s keys' := by
  intro c hc
  have hnew : (newKeys s.snap keys').Perm (newKeys s.snap keys) := hperm.symm.dedup.filter _
  rw [hnew.length_eq]
  exact h c hc

theorem exec_cellwr_eq_next_iff {s t : State} {p v : U64} :
    exec (.cellwr p v) s = .next t ↔
      s.phase = .loading ∧ ¬(memRead s.snap p = none ∧ atCapacity s = true) ∧
        t = (s.storeCell p v).addResponse .done := by
  constructor
  · intro h
    obtain ⟨hloading, hroom⟩ := accepts_cellwr.1 (exists_exec_next_iff.1 ⟨t, h⟩)
    exact ⟨hloading, hroom, (exec_cellwr_next h).2⟩
  · rintro ⟨hloading, hroom, rfl⟩
    exact exec_cellwr_of_room hloading hroom v

/-- Two `CELLWR`s are accepted one after the other exactly if two cells are still to come and both keys have room, a
condition that does not know which of them is first (rule R132). -/
theorem exec_two_cellwr_eq_next_iff {s t' : State} (hs : Consistent s) {p q v w : U64} :
    (∃ t, exec (.cellwr p v) s = .next t ∧ exec (.cellwr q w) t = .next t') ↔
      s.phase = .loading ∧ phaseAfter (s.remain - 1) = .loading ∧ HasRoom s [p, q] ∧
        t' = (((s.storeCell p v).storeCell q w).addResponse .done).addResponse .done := by
  have hwf : (s.storeCell p v).snap.wf = true := memWrite_wf hs.canonical p v
  rw [hasRoom_cons_iff hs.canonical v, hasRoom_cons_iff hwf w]
  constructor
  · rintro ⟨t, ht, ht'⟩
    obtain ⟨hloading, hroom, rfl⟩ := exec_cellwr_eq_next_iff.1 ht
    obtain ⟨hloading', hroom', rfl⟩ := exec_cellwr_eq_next_iff.1 ht'
    have hfits : HasRoom ((s.storeCell p v).storeCell q w) [] :=
      ((hs.storeCell hroom v).storeCell hroom' w).withinCapacity
    exact ⟨hloading, hloading', ⟨hroom, hroom', hfits⟩, rfl⟩
  · rintro ⟨hloading, hloading', ⟨hroom, hroom', _⟩, rfl⟩
    exact ⟨_, exec_cellwr_of_room hloading hroom v,
      exec_cellwr_of_room (s := (s.storeCell p v).addResponse .done) hloading' hroom' w⟩

/-! ## The statements -/

/-- Settles O1. -/
theorem resetHasNoContext : Obligations.ResetHasNoContext :=
  ⟨State.reset_phase, fun a => by rw [State.reset_snap, memRead_nil]⟩

/-- Settles O2, from the state that `applyReset` leaves. -/
theorem resetEventBeginsNewRun : Obligations.ResetEventBeginsNewRun := by
  intro s rest hport
  exact ⟨_, step_of_reset hport, by simp⟩

/-- Settles O3. -/
theorem emptyPortLeavesStateUnchanged : Obligations.EmptyPortLeavesStateUnchanged :=
  fun _ => step_of_nil

/-- Settles O40: the run leaves the block as it was, and only adds to the responses. -/
theorem contextConstantWhileReady : Obligations.ContextConstantWhileReady := by
  intro k s t hready hreset hrun
  have hresponses := run_next_responses hrun
  obtain ⟨q, rs, rfl⟩ := run_next_of_ready hready hreset hrun
  exact ⟨hready, rfl, rfl, rfl, rfl, hresponses⟩

/-- Settles O43: what two `CELLWR`s ask of the state, and what they leave, is the same with the two exchanged. -/
theorem loadOrderOfDistinctKeysIsFree : Obligations.LoadOrderOfDistinctKeysIsFree := by
  intro s t t' p q v w hs hne hp hq
  obtain ⟨hloading, hloading', hroom, ht'⟩ := (exec_two_cellwr_eq_next_iff hs).1 ⟨t, hp, hq⟩
  rw [State.storeCell_comm hs.canonical hne] at ht'
  exact (exec_two_cellwr_eq_next_iff hs).2 ⟨hloading, hloading', hroom.perm (.swap q p []), ht'⟩

end Sys2Proof.Machine
end
